-- ==== Sys2Proof/Word.lean ====
section
/-!
DEFINITION. The word types of the framer-ARQ block (rules R8, R9): a byte, the 16-bit and 32-bit wire fields, and a
byte sequence. Only what the spec treats as bits is a bit vector; counts, indexes into an array and register values
that never wrap are natural numbers (rule R8: "integers in pseudocode are unbounded mathematical integers").
-/

namespace Sys2Proof

/-- A byte: an unsigned 8-bit value (R8). -/
abbrev Byte := BitVec 8

/-- `u16`: packet index, control-reply number, checksum (R8, R80 to R85). -/
abbrev U16 := BitVec 16

/-- A 32-bit field. The handshake's two fields are read signed through `BitVec.toInt` (`i32`, R83). -/
abbrev I32 := BitVec 32

/-- `Bytes`: a finite list of bytes, possibly empty (R9). -/
abbrev Bytes := List Byte

end Sys2Proof
end

