-- ==== Sys2Proof/Config.lean ====
section
/-!
DEFINITION. The constants the document fixes (rule R6), the bounds the spec decides (rule R7: `N_MAX`), the values the
model's `State.reset` gives the two OPEN parameters (rule R7: `MAX_CHUNK`, `RETRY_LIMIT`), and the free values: results
the spec does not state, which nothing in Lean can evaluate.
-/

namespace Sys2Proof.Config

/-- `SYNC = 0x16`, the sync marker, sent twice (R6, R81). -/
def sync : Byte := 0x16#8
/-- `STX = 0x02`, the start-of-data marker (R6, R81). -/
def stx : Byte := 0x02#8
/-- `ETX = 0x03`, the end-of-data marker (R6, R81). -/
def etx : Byte := 0x03#8
/-- `ESC = 0x10`, the escape byte (R6, R81). -/
def esc : Byte := 0x10#8
/-- `ACK = 0x06`, the positive control-reply kind (R6, R85). -/
def ackKind : Byte := 0x06#8
/-- `NAK = 0x21`, the negative control-reply kind (R6, R85; remark G1: not the ASCII code 0x15). -/
def nakKind : Byte := 0x21#8
/-- `SEQ_MOD = 256`, the modulus of the wire sequence number (R6, R150). -/
def seqMod : Nat := 256
/-- `MIN_FRAME = 6`, the shortest frame: three header bytes and three trailer bytes (R6, R65). -/
def minFrame : Nat := 6
/-- `N_MAX = 65536`, the largest legal packet count (R7, decision D5), and the number of entries of `SWR.RB` (R31). -/
def nMax : Nat := 65536

/-- The value `State.reset` gives the OPEN parameter `MAX_CHUNK`; `none` is "unbounded" (R7, D7).
DESIGN CHOICE (notes/assumptions/1.md), unsafe: the spec leaves the parameter open, so every statement is made for
every value of the field `State.par` and none rests on this one. -/
def maxChunk : Option Nat := none

/-- The value `State.reset` gives the OPEN parameter `RETRY_LIMIT`; `none` is "unbounded", the reference behaviour
(R7, D8). DESIGN CHOICE (notes/assumptions/1.md), unsafe, as for `maxChunk`. -/
def retryLimit : Option Nat := none

/-- FREE VALUE: the byte sequence `concat` gives where the spec does not define it, because an entry is `ABSENT`
(R73: "defined only when entries `0..n-1` are all present"). Applied to the counter `State.free`
(notes/assumptions/5.md). -/
opaque freeBytes : Nat → Bytes

/-- FREE VALUE: the index `SWR.HANDOFF` works with when it is run on its own while `SWR.LASTIDX = ABSENT` (R188 reads
`LASTIDX + 1` and states no value for `ABSENT + 1`). Applied to the counter `State.free` (notes/assumptions/6.md). -/
opaque freeIndex : Nat → U16

/-- FREE VALUE: the `LEN` field of a frame of 2^32 bytes or more, which exists only with `MAX_CHUNK` unbounded: the field
has 32 bits and neither R90 nor R243 states a value for such a length. A function of the length
(notes/assumptions/25.md). -/
opaque freeLength : Nat → I32

end Sys2Proof.Config
end

