-- ==== Sys2Proof/Syntax.lean ====
section
/-!
DEFINITION. The operations of the block (rule R97): one constructor of `Instr` for each row of spec/opcode_table.json.
Rows with a wire format (`FRAME`, `ENV`, `HS`, `HSACK`, `ACK`, `NAK`, `CTRL.RSVD`) are messages that arrive on the
channel, with the fields of their byte layout as operands: as their bytes or as the typed message (R240); every
other row has no binary code in the spec ("None has a binary opcode in the document; a model represents them as
constructors", R97) and is the operation itself with its operands. Also here: the input events of rule R12, and `Item`, the form in which the environment presents the
next operation to the step.
-/

namespace Sys2Proof

/-- The wire formats of R80 with a parser of their own (R245). `hsr` and `ctrl` have the same layout; the session phase
tells them apart (R84). -/
inductive Format where
  | frame | env | hs | hsr | ctrl
  deriving DecidableEq, Repr

/-- The two engines in a sender role (R15, R164). -/
inductive Sender where
  | sws | srs
  deriving DecidableEq, Repr

/-- The two engines in a receiver role (R15). -/
inductive Receiver where
  | swr | srr
  deriving DecidableEq, Repr

/-- The storage arrays and bit arrays of R60. -/
inductive ArrayName where
  | swsChunk | srsChunk | swrRb | srrRb | outst | flags | nakSent
  deriving DecidableEq, Repr

/-- What `MemWrite` may write: an entry of a reassembly buffer or a bit of a bit array, with its index and the value
(R10, R60, R64). The chunk store has no constructor here: no rule writes it (R246). -/
inductive Store where
  | swrRb (i : Nat) (c : Bytes)
  | srrRb (i : Nat) (c : Bytes)
  | outst (i : Nat) (b : Bool)
  | flags (i : Nat) (b : Bool)
  | nakSent (i : Nat) (b : Bool)
  deriving DecidableEq, Repr

/-- The four `START_*` events (R12, R249). -/
inductive StartReq where
  | swTx (n : I32) (chunks : List Bytes)
  | swRx
  | srTx (n w : I32) (chunks : List Bytes)
  | srRx
  deriving DecidableEq, Repr

/-- The input events of R12 and R241. -/
inductive Event where
  | reset
  | start (r : StartReq)
  | stop
  | rxHs (n w : I32)
  | rxData (idx : U16) (last : Bool) (frame : Bytes)
  | rxCtrl (kind : Byte) (num : U16)
  | timeout
  | transportFail
  deriving DecidableEq, Repr

/-- The operations: one constructor per row of spec/opcode_table.json, in the table's order. -/
inductive Instr where
  -- wire formats (R81 to R85, R91): a message that arrives
  | frame (body : Bytes) (etx : Byte) (csum : U16)
  | env (idx : U16) (last : Byte) (frame : Bytes)
  | hs (n w : I32)
  | hsack (p : U16)
  | ack (num : U16)
  | nak (num : U16)
  | ctrlRsvd (kind : Byte) (num : U16)
  -- frame codec (R121 to R125)
  | stuff (x : Bytes)
  | unstuff (y : Bytes)
  | csum16 (y : Bytes)
  | encode (c : Bytes)
  | decode (f : Bytes)
  -- sequence-number tracker and window manager (R150 to R165)
  | seqOf (i : U16)
  | seqInc
  | islastOf (i n : Nat)
  | winInit (n w : Nat)
  | winHi
  | winFill
  | winAck (num : U16)
  | winAdvance
  | winDone
  | acked (i : Nat)
  | rxMark (idx : U16) (c : Bytes)
  | rxComplete
  | nakOnce (idx : U16)
  | idxValid (idx : U16)
  | retryTake (e : Sender)
  -- storage (R63, R64, R73)
  | memRead (a : ArrayName) (i : Nat)
  | memWrite (w : Store)
  | concat (r : Receiver) (n : Nat)
  -- serialisers and parsers (R242 to R244)
  | serCtrl (kind : Byte) (num : U16)
  | parseCtrl (m : Bytes)
  | serEnv (idx : U16) (last : Bool) (frame : Bytes)
  | parseEnv (m : Bytes)
  | serHs (n w : I32)
  | parseHs (m : Bytes)
  -- pseudo-operations (R99)
  | send (e : Sender) (i : Nat)
  | fill
  | resendAll
  -- Stop-and-Wait sender (R171 to R176)
  | swsStart (n : I32) (chunks : List Bytes)
  | swsSend
  | swsAck (num : U16)
  | swsNak (num : U16)
  | swsTimeout
  | swsRsvd (kind : Byte) (num : U16)
  -- Stop-and-Wait receiver (R181 to R188)
  | swrStart
  | swrDataValidFirst (idx : U16) (last : Bool) (frame : Bytes)
  | swrDataValidDup (idx : U16) (last : Bool) (frame : Bytes)
  | swrDataInvalid (idx : U16) (last : Bool) (frame : Bytes)
  | swrLast (idx : U16)
  | swrHandoff
  -- Selective-Repeat sender (R201 to R207)
  | srsStart (n w : I32) (chunks : List Bytes)
  | srsHsack (p : U16)
  | srsAck (num : U16)
  | srsNak (num : U16)
  | srsTimeout
  | srsRsvd (kind : Byte) (num : U16)
  -- Selective-Repeat receiver (R216 to R227)
  | srrStart
  | srrHs (n w : I32)
  | srrHsMalformed (n w : I32)
  | srrDataOor (idx : U16) (last : Bool) (frame : Bytes)
  | srrDataValidFirst (idx : U16) (last : Bool) (frame : Bytes)
  | srrDataValidDup (idx : U16) (last : Bool) (frame : Bytes)
  | srrDataInvalid (idx : U16) (last : Bool) (frame : Bytes)
  -- host and environment events (R248, R249, R258, R268 to R270)
  | reset
  | startCommon (r : StartReq)
  | stop
  | transportFail
  | timeout
  | ignore
  -- output messages (R12, R241)
  | txHs (n w : I32)
  | txData (idx : U16) (last : Bool) (frame : Bytes)
  | txCtrl (kind : Byte) (num : U16)
  | sink (bytes : Bytes)
  deriving DecidableEq, Repr

/-- The kinds of row of spec/opcode_table.json (R97, R100). -/
inductive RowClass where
  | wire (fmt : Format)
  | event
  | function
  | message
  deriving DecidableEq, Repr

/-- The form in which the environment presents the next operation: the bytes of one channel message together with the
format the transport reads them by (R245: "the parser is chosen by direction and phase"), or the operation itself (R97),
among them a channel message as a typed message (R240). -/
inductive Item where
  | wire (fmt : Format) (bytes : Bytes)
  | op (i : Instr)
  deriving DecidableEq, Repr

/-- Why the decoder gives no instruction for an item. -/
inductive Reject where
  /-- The bytes of an envelope, a handshake or a control reply are not those of exactly one message. R245: such a stream
  is "outside what this spec models (the block sees typed messages, so the case cannot arise at its boundary)". -/
  | wrongLength
  /-- An operation with an operand that the spec says cannot be expressed: a chunk array of another length than `N` or
  with a chunk above `MAX_CHUNK` (R246), a count above its register's width (R26), a reserved kind that is none (R91). -/
  | illFormed
  deriving DecidableEq, Repr

end Sys2Proof
end

