-- ==== Sys2Proof/Machine/State.lean ====
section
/-!
DEFINITION. The state of one block instance (rules R20 to R36): the role register and one record per engine, and beside
them the model's own fields (the parameters of the instance, the events the environment presents, the messages emitted,
the result of the last function operation, the counter of the free values). Faults and refusals. `State.reset`.
-/

namespace Sys2Proof.Machine

/-- `MODE`, the role register (R21). -/
inductive Mode where
  | none | swTx | swRx | srTx | srRx
  deriving DecidableEq, Repr

/-- The four engines (R15). -/
inductive Engine where
  | sws | swr | srs | srr
  deriving DecidableEq, Repr

/-- `SWS.ST` (R22). -/
inductive SwsSt where
  | idle | awaitingAck | done | failed | stopped
  deriving DecidableEq, Repr

/-- `SWR.ST` (R22). -/
inductive SwrSt where
  | idle | receiving | done | failed | stopped
  deriving DecidableEq, Repr

/-- `SRS.ST` (R22). -/
inductive SrsSt where
  | idle | awaitHsAck | awaitReply | done | failed | stopped
  deriving DecidableEq, Repr

/-- `SRR.ST` (R22). -/
inductive SrrSt where
  | idle | awaitHs | receiving | done | failed | stopped
  deriving DecidableEq, Repr

/-- Frame status codes, held in `RXSTAT` (R261). -/
inductive RxStat where
  | ok | tooShort | badHeader | badTrailer | badChecksum | tooLong | outOfRange
  deriving DecidableEq, Repr

/-- Error codes, held in `ERR` (R262). -/
inductive Err where
  | none | transportFailure | malformedHandshake | retryExhausted | incompleteReassembly
  deriving DecidableEq, Repr

/-- A bit array (R30): the indices whose bit is 1, strictly rising; an unlisted bit is 0. Its length is the `N` register
of its engine. -/
abbrev BitArray := List Nat

/-- A reassembly buffer (R31): the present entries with their index, indices strictly rising; an unlisted entry is
`ABSENT`. -/
abbrev EntryArray := List (Nat × Bytes)

/-- Stop-and-Wait sender (R24, R31). -/
structure Sws where
  st : SwsSt
  n : Nat
  i : Nat
  currSeq : Byte
  retry : Nat
  err : Err
  chunk : List Bytes
  deriving DecidableEq, Repr

/-- Stop-and-Wait receiver (R25, R31). -/
structure Swr where
  st : SwrSt
  lastIdx : Option U16
  rxStat : RxStat
  err : Err
  rb : EntryArray
  deriving DecidableEq, Repr

/-- Selective-Repeat sender (R26, R30, R31). -/
structure Srs where
  st : SrsSt
  n : Nat
  w : Nat
  winBase : Nat
  nextSeq : Nat
  retry : Nat
  err : Err
  outst : BitArray
  chunk : List Bytes
  deriving DecidableEq, Repr

/-- Selective-Repeat receiver (R27, R30, R31). -/
structure Srr where
  st : SrrSt
  n : Nat
  w : Nat
  rcount : Nat
  lastSeen : Bool
  oor : Bool
  rxStat : RxStat
  err : Err
  flags : BitArray
  nakSent : BitArray
  rb : EntryArray
  deriving DecidableEq, Repr

/-- The parameters of the instance (R7, R29): constants of the instance, `none` for "unbounded". No operation writes
them (R274, R291). `MAX_CHUNK` is 1 or more (R7), which `ParInv` of the invariants says. -/
structure Params where
  maxChunk : Option Nat
  retryLimit : Option Nat
  deriving DecidableEq, Repr

/-- The output messages of R12 and R241. -/
inductive Message where
  | hs (n w : I32)
  | data (idx : U16) (last : Bool) (frame : Bytes)
  | ctrl (kind : Byte) (num : U16)
  | sink (bytes : Bytes)
  deriving DecidableEq, Repr

/-- What a function operation returns (the "result" column of the table's FN rows). The MODEL's own type. -/
inductive Ret where
  /-- No function has returned a result yet. -/
  | nothing
  | bool (b : Bool)
  | count (k : Nat)
  | tag (b : Byte)
  | word (k : U16)
  | bytes (x : Bytes)
  /-- The three results of `DECODE` (R125). -/
  | decoded (c : Bytes) (valid : Bool) (status : RxStat)
  /-- One element read by `MemRead`: a bit, a chunk, or an optional entry (`none` is `ABSENT`) (R10). -/
  | bit (b : Bool)
  | entry (e : Option Bytes)
  /-- The event a parser yields and the bytes it leaves in the stream (R242 to R244). -/
  | event (e : Event) (rest : Bytes)
  /-- A parser was given fewer bytes than one whole message has (notes/assumptions/12.md). -/
  | incomplete
  deriving DecidableEq, Repr

/-- The state of one instance. The first five fields are the record of R20; the others are the model's own. -/
structure State where
  /-- `MODE` (R21). -/
  mode : Mode
  /-- `SWS` (R24). -/
  sws : Sws
  /-- `SWR` (R25). -/
  swr : Swr
  /-- `SRS` (R26). -/
  srs : Srs
  /-- `SRR` (R27). -/
  srr : Srr
  /-- The instance's constants `MAX_CHUNK` and `RETRY_LIMIT` (R7, R29). Model's own field: never written. -/
  par : Params
  /-- What the environment has presented and no step has consumed, the next one first (R32 items 1, 3, 4; R265).
  Model's own field. -/
  input : List Item
  /-- The messages emitted so far, the oldest first (R11, R67). Model's own field. -/
  tx : List Message
  /-- The result of the last function operation. Model's own field. -/
  ret : Ret
  /-- How many free values have been used. Model's own field. -/
  free : Nat
  deriving DecidableEq, Repr

/-- Why the machine stops. -/
inductive Fault where
  /-- An element of a storage array or bit array is named that does not exist (R30: "Reading or writing index `i >= N`
  never happens"; R204, decision D27: "reading `CHUNK[s]` for `s >= N` must not happen"). Raised by the function
  operations that take an index the caller must have checked. SAFE: the model stops where the spec gives no behaviour. -/
  | noSuchElement (a : ArrayName) (i : Nat)
  deriving DecidableEq, Repr

/-- Why the machine gives no meaning to an item. -/
inductive Refusal where
  /-- An operation without a meaning in the model; raised by `exec` only. SAFE: nothing can be proved of it. -/
  | notModelled (mnemonic : String)
  /-- The item at the head of the input is no message and no operation of the spec: bytes that are not exactly one envelope,
  handshake or control reply (R245: "outside what this spec models (the block sees typed messages, so the case cannot
  arise at its boundary)"), or an operand that cannot be expressed (R246: "a longer chunk cannot be expressed"; R26, R91).
  Raised by `step` only. SAFE: the spec gives such an item no effect. -/
  | undecodable (why : Reject)
  deriving DecidableEq, Repr

/-- Reset values of `SWS` (R24, R35). -/
def Sws.reset : Sws := { st := .idle, n := 0, i := 0, currSeq := 0, retry := 0, err := .none, chunk := [] }

/-- Reset values of `SWR` (R25, R35). -/
def Swr.reset : Swr := { st := .idle, lastIdx := none, rxStat := .ok, err := .none, rb := [] }

/-- Reset values of `SRS` (R26, R35). -/
def Srs.reset : Srs :=
  { st := .idle, n := 0, w := 0, winBase := 0, nextSeq := 0, retry := 0, err := .none, outst := [], chunk := [] }

/-- Reset values of `SRR` (R27, R35). -/
def Srr.reset : Srr :=
  { st := .idle, n := 0, w := 0, rcount := 0, lastSeen := false, oor := false, rxStat := .ok, err := .none, flags := [],
    nakSent := [], rb := [] }

/-- The instance at power-on (R35, R290), with nothing presented and nothing emitted. The values of the model's own
fields (`par`, `input`, `tx`, `ret`, `free`) are DESIGN CHOICE: notes/assumptions/1.md to 5.md. -/
def State.reset : State :=
  { mode := .none, sws := Sws.reset, swr := Swr.reset, srs := Srs.reset, srr := Srr.reset,
    par := { maxChunk := Config.maxChunk, retryLimit := Config.retryLimit },
    input := [], tx := [], ret := .nothing, free := 0 }

end Sys2Proof.Machine
end

