-- ==== Sys2Proof/Machine/Codec.lean ====
section
/-!
DEFINITION. The Frame Codec (rules R120 to R126): `STUFF`, `UNSTUFF`, `CSUM16`, `ENCODE`, `DECODE`, as pure functions
(R132). `DECODE` takes the parameter `MAX_CHUNK` as an argument; it fixes `MAX_FRAME` (R7, R130).
-/

namespace Sys2Proof.Machine

/-- `RESERVED = {0x16, 0x02, 0x03, 0x10}` (R120). -/
def reserved (b : Byte) : Bool :=
  decide (b = Config.sync) || decide (b = Config.stx) || decide (b = Config.etx) || decide (b = Config.esc)

/-- `STUFF(x)`: an escape byte before every reserved byte (R121). -/
def stuff : Bytes → Bytes
  | [] => []
  | b :: r => if reserved b then Config.esc :: b :: stuff r else b :: stuff r

/-- `UNSTUFF(y)`: each escape byte removed, the byte after it taken literally; a lone final escape contributes nothing
(R122). -/
def unstuff : Bytes → Bytes
  | [] => []
  | [b] => if b = Config.esc then [] else [b]
  | b :: c :: r => if b = Config.esc then c :: unstuff r else b :: unstuff (c :: r)

/-- One step of the accumulator: `s + w` with the end-around carry (R123). -/
def csumAdd (acc w : Nat) : Nat :=
  if 0xFFFF < acc + w then (acc + w) % 0x10000 + 1 else acc + w

/-- The accumulator over the body's big-endian 16-bit words, counted from the first body byte; an odd last byte is the
high byte of its word (R62, R123). -/
def csumFold (acc : Nat) : Bytes → Nat
  | [] => acc
  | [hi] => csumAdd acc (hi.toNat * 256)
  | hi :: lo :: r => csumFold (csumAdd acc (hi.toNat * 256 + lo.toNat)) r

/-- `CSUM16(y)`: the complement of the folded sum, starting from 0 (R123). -/
def csum16 (y : Bytes) : U16 := BitVec.ofNat 16 (0xFFFF - csumFold 0 y)

/-- The bytes of a frame around a stuffed body, with the end marker and checksum given (R65, R81). -/
def frameBytes (body : Bytes) (etx : Byte) (csum : U16) : Bytes :=
  [Config.sync, Config.sync, Config.stx] ++ body ++ [etx, csum.extractLsb' 8 8, csum.extractLsb' 0 8]

/-- `ENCODE(c)` (R124). -/
def encodeFrame (c : Bytes) : Bytes := frameBytes (stuff c) Config.etx (csum16 (stuff c))

/-- `L > MAX_FRAME`, with `MAX_FRAME = 6 + 2 * MAX_CHUNK`; never when `MAX_CHUNK` is unbounded (R7, R125, R130). -/
def tooLong (maxChunk : Option Nat) (len : Nat) : Bool :=
  match maxChunk with
  | none => false
  | some k => decide (6 + 2 * k < len)

/-- The byte at offset `k` of a frame; used only for offsets below its length. -/
def byteAt (f : Bytes) (k : Nat) : Byte := f.getD k 0

/-- The three results of `DECODE`: the chunk, `valid`, the status (R125). -/
structure Decoded where
  chunk : Bytes
  valid : Bool
  status : RxStat
  deriving DecidableEq, Repr

/-- The result of a structural failure: the empty chunk, invalid (R125, decision D22). -/
def structuralFailure (status : RxStat) : Decoded := { chunk := [], valid := false, status := status }

/-- `DECODE(f)`, the checks in the order of R125: length, header, trailer, checksum. -/
def decodeFrame (maxChunk : Option Nat) (f : Bytes) : Decoded :=
  if f.length < Config.minFrame then structuralFailure .tooShort
  else if tooLong maxChunk f.length then structuralFailure .tooLong
  else if byteAt f 0 ≠ Config.sync ∨ byteAt f 1 ≠ Config.sync ∨ byteAt f 2 ≠ Config.stx then
    structuralFailure .badHeader
  else if byteAt f (f.length - 3) ≠ Config.etx then structuralFailure .badTrailer
  else
    let body := (f.drop 3).take (f.length - 6)
    let rx := (byteAt f (f.length - 2)).toNat * 256 + (byteAt f (f.length - 1)).toNat
    if (csum16 body).toNat = rx then { chunk := unstuff body, valid := true, status := .ok }
    else { chunk := unstuff body, valid := false, status := .badChecksum }

end Sys2Proof.Machine
end

