-- ==== Sys2Proof/WellFormed.lean ====
section
/-!
DEFINITION. Which operands an operation may have (the operand columns of spec/opcode_table.json and the rules they
cite). A check here is about the operation as written, and refuses only what the spec says cannot be expressed; conditions
on the state stand in the meanings. Operands outside the range a rule states, but within their type, are run
(notes/assumptions/26.md).
-/

namespace Sys2Proof

/-- A chunk is at most `MAX_CHUNK` bytes long, when that is finite (R7, R246). -/
def chunkFits (maxChunk : Option Nat) (c : Bytes) : Bool :=
  match maxChunk with
  | none => true
  | some k => decide (c.length ≤ k)

/-- The chunk array of a sender's start: exactly `N` chunks, none longer than `MAX_CHUNK`; an array of length 0 when
`N <= 0` (R171, R201, R246). -/
def chunksFit (maxChunk : Option Nat) (n : I32) (chunks : List Bytes) : Bool :=
  decide (chunks.length = n.toInt.toNat) && chunks.all (chunkFits maxChunk)

/-- The count and window size `WIN_INIT` writes fit `SRS.N` (0 .. 65536) and `SRS.W` (0 .. 2^31 - 1) (R26). -/
def registersFit (n w : Nat) : Bool := decide (n ≤ Config.nMax) && decide (w ≤ 2 ^ 31 - 1)

/-- A frame's length fits the envelope's unsigned 32-bit `LEN` field (R82, R90). A longer frame has no envelope and stays
a typed message (notes/assumptions/25.md). -/
def lenFits (frame : Bytes) : Bool := decide (frame.length < 2 ^ 32)

/-- A reserved kind: neither 0x06 nor 0x21 (R91). -/
def kindReserved (kind : Byte) : Bool := decide (kind ≠ Config.ackKind) && decide (kind ≠ Config.nakKind)

/-- The operands of a start event (R246). -/
def StartReq.wellFormed (maxChunk : Option Nat) : StartReq → Bool
  | .swTx n chunks => chunksFit maxChunk n chunks
  | .swRx => true
  | .srTx n _ chunks => chunksFit maxChunk n chunks
  | .srRx => true

/-- The operands are ones the spec gives the operation. -/
def Instr.wellFormed (maxChunk : Option Nat) : Instr → Bool
  | .frame _ _ _ => true
  | .env _ _ _ => true
  | .hs _ _ => true
  | .hsack _ => true
  | .ack _ => true
  | .nak _ => true
  | .ctrlRsvd kind _ => kindReserved kind
  | .stuff _ => true
  | .unstuff _ => true
  | .csum16 _ => true
  | .encode _ => true
  | .decode _ => true
  | .seqOf _ => true
  | .seqInc => true
  | .islastOf _ _ => true
  | .winInit n w => registersFit n w
  | .winHi => true
  | .winFill => true
  | .winAck _ => true
  | .winAdvance => true
  | .winDone => true
  | .acked _ => true
  | .rxMark _ _ => true
  | .rxComplete => true
  | .nakOnce _ => true
  | .idxValid _ => true
  | .retryTake _ => true
  | .memRead _ _ => true
  | .memWrite _ => true
  | .concat _ _ => true
  | .serCtrl _ _ => true
  | .parseCtrl _ => true
  | .serEnv _ _ _ => true
  | .parseEnv _ => true
  | .serHs _ _ => true
  | .parseHs _ => true
  | .send _ _ => true
  | .fill => true
  | .resendAll => true
  | .swsStart n chunks => chunksFit maxChunk n chunks
  | .swsSend => true
  | .swsAck _ => true
  | .swsNak _ => true
  | .swsTimeout => true
  | .swsRsvd _ _ => true
  | .swrStart => true
  | .swrDataValidFirst _ _ _ => true
  | .swrDataValidDup _ _ _ => true
  | .swrDataInvalid _ _ _ => true
  | .swrLast _ => true
  | .swrHandoff => true
  | .srsStart n _ chunks => chunksFit maxChunk n chunks
  | .srsHsack _ => true
  | .srsAck _ => true
  | .srsNak _ => true
  | .srsTimeout => true
  | .srsRsvd _ _ => true
  | .srrStart => true
  | .srrHs _ _ => true
  | .srrHsMalformed _ _ => true
  | .srrDataOor _ _ _ => true
  | .srrDataValidFirst _ _ _ => true
  | .srrDataValidDup _ _ _ => true
  | .srrDataInvalid _ _ _ => true
  | .reset => true
  | .startCommon r => r.wellFormed maxChunk
  | .stop => true
  | .transportFail => true
  | .timeout => true
  | .ignore => true
  | .txHs _ _ => true
  | .txData _ _ _ => true
  | .txCtrl _ _ => true
  | .sink _ => true

/-- The kind of row an operation is, from the table's "format" column (R97, R100): a wire format, an input event
(`EVT`), a function or pseudo-operation (`FN`), an output message (`MSG`). -/
def Instr.rowClass : Instr → RowClass
  | .frame .. => .wire .frame
  | .env .. => .wire .env
  | .hs .. => .wire .hs
  | .hsack .. => .wire .hsr
  | .ack .. | .nak .. | .ctrlRsvd .. => .wire .ctrl
  | .stuff .. | .unstuff .. | .csum16 .. | .encode .. | .decode .. => .function
  | .seqOf .. | .seqInc | .islastOf .. => .function
  | .winInit .. | .winHi | .winFill | .winAck .. | .winAdvance | .winDone | .acked .. => .function
  | .rxMark .. | .rxComplete | .nakOnce .. | .idxValid .. | .retryTake .. => .function
  | .memRead .. | .memWrite .. | .concat .. => .function
  | .serCtrl .. | .parseCtrl .. | .serEnv .. | .parseEnv .. | .serHs .. | .parseHs .. => .function
  | .send .. | .fill | .resendAll => .function
  | .swsStart .. | .swsAck .. | .swsNak .. | .swsTimeout | .swsRsvd .. => .event
  | .swsSend => .function
  | .swrStart | .swrDataValidFirst .. | .swrDataValidDup .. | .swrDataInvalid .. | .swrLast .. => .event
  | .swrHandoff => .function
  | .srsStart .. | .srsHsack .. | .srsAck .. | .srsNak .. | .srsTimeout | .srsRsvd .. => .event
  | .srrStart | .srrHs .. | .srrHsMalformed .. => .event
  | .srrDataOor .. | .srrDataValidFirst .. | .srrDataValidDup .. | .srrDataInvalid .. => .event
  | .reset | .startCommon .. | .stop | .transportFail | .timeout | .ignore => .event
  | .txHs .. | .txData .. | .txCtrl .. | .sink .. => .message

/-- A wire-format row: a channel message. -/
def Instr.isWire (i : Instr) : Bool :=
  match i.rowClass with
  | .wire _ => true
  | .event => false
  | .function => false
  | .message => false

end Sys2Proof
end

