-- ==== Sys2Proof/Machine/Operands.lean ====
section
/-!
DEFINITION. Operand forms: the assembly of every multi-byte field (R9, R61, R86), the values the wire fields carry
(R87 to R90), the legality of the handshake fields (R94), and the serialisers and parsers (R242 to R244).
-/

namespace Sys2Proof.Machine

/-- `be16(v) = [v[15:8], v[7:0]]` (R9). -/
def be16 (v : U16) : Bytes := [v.extractLsb' 8 8, v.extractLsb' 0 8]

/-- `be32(v)`, most significant byte first (R9). -/
def be32 (v : I32) : Bytes := [v.extractLsb' 24 8, v.extractLsb' 16 8, v.extractLsb' 8 8, v.extractLsb' 0 8]

/-- `from_be16` on two bytes: `hi * 256 + lo` (R9, R86). -/
def fromBe16 (hi lo : Byte) : U16 := BitVec.ofNat 16 (hi.toNat * 256 + lo.toNat)

/-- `from_be32` on four bytes, most significant first (R9, R86). -/
def fromBe32 (b3 b2 b1 b0 : Byte) : I32 :=
  BitVec.ofNat 32 (((b3.toNat * 256 + b2.toNat) * 256 + b1.toNat) * 256 + b0.toNat)

/-- The `LAST` byte as sent: 0x01 for the last packet, else 0x00 (R89). -/
def lastByte (last : Bool) : Byte := if last then 0x01#8 else 0x00#8

/-- The `LAST` byte as received: 0x00 is false, every other value true (R89). -/
def lastOfByte (b : Byte) : Bool := decide (b ≠ 0x00#8)

/-- The number in an `ACK` of the Stop-and-Wait receiver: `(idx + 1) mod 256` in a 16-bit field (R88, R186). -/
def swrAckNum (idx : U16) : U16 := BitVec.ofNat 16 ((idx.toNat + 1) % Config.seqMod)

/-- The index a `TX_DATA` carries: the full packet index in 16 bits (R87). -/
def idxField (k : Nat) : U16 := BitVec.ofNat 16 k

/-- A legal packet count: `1 <= N <= 65536`, read as `i32` (R94). -/
def legalN (n : I32) : Bool := decide (0 < n.toInt) && decide (n.toInt ≤ Config.nMax)

/-- A legal window size: `W >= 1`, read as `i32` (R94). -/
def legalW (w : I32) : Bool := decide (0 < w.toInt)

/-- `SER_CTRL(kind, seq)` (R242). -/
def serCtrl (kind : Byte) (num : U16) : Bytes := kind :: be16 num

/-- The control reply at the front of a byte stream, three bytes: its kind, its number, and the rest of the stream;
`none` while the stream holds less than one reply (R242, R245). -/
def readCtrl : Bytes → Option (Byte × U16 × Bytes)
  | k :: hi :: lo :: rest => some (k, fromBe16 hi lo, rest)
  | _ => none

/-- The `LEN` field of a frame: `len(frame)` (R90, R243). For 2^32 bytes or more, where the field cannot hold the length
and the spec states no value, it is a free value: DESIGN CHOICE, notes/assumptions/25.md. -/
def lenField (frame : Bytes) : I32 :=
  if lenFits frame then BitVec.ofNat 32 frame.length else Config.freeLength frame.length

/-- `SER_ENV(idx, last, frame)` (R243); for a frame of 2^32 bytes or more see `lenField`. -/
def serEnv (idx : U16) (last : Bool) (frame : Bytes) : Bytes :=
  be32 (lenField frame) ++ be16 idx ++ [lastByte last] ++ frame

/-- The envelope's fields as they lie at the front of a byte stream: the index, the raw `LAST` byte, the `LEN` frame
bytes, and the rest of the stream; `none` while the stream holds less than one envelope (R82, R243). -/
def readEnv : Bytes → Option (U16 × Byte × Bytes × Bytes)
  | l3 :: l2 :: l1 :: l0 :: i1 :: i0 :: f :: rest =>
    let len := (fromBe32 l3 l2 l1 l0).toNat
    if len ≤ rest.length then some (fromBe16 i1 i0, f, rest.take len, rest.drop len) else none
  | _ => none

/-- `SER_HS(n, w)` (R244). -/
def serHs (n w : I32) : Bytes := be32 n ++ be32 w

/-- The handshake at the front of a byte stream, eight bytes: its two fields and the rest of the stream; `none` while the
stream holds less than one handshake (R244, R245). -/
def readHs : Bytes → Option (I32 × I32 × Bytes)
  | n3 :: n2 :: n1 :: n0 :: w3 :: w2 :: w1 :: w0 :: rest => some (fromBe32 n3 n2 n1 n0, fromBe32 w3 w2 w1 w0, rest)
  | _ => none

/-- The bytes of a message on the channel; `SINK` has no wire format (R97, R242 to R244). -/
def wireBytes : Message → Option Bytes
  | .hs n w => some (serHs n w)
  | .data idx last frame => some (serEnv idx last frame)
  | .ctrl kind num => some (serCtrl kind num)
  | .sink _ => none

end Sys2Proof.Machine
end

