-- ==== Sys2Proof/Decode.lean ====
section
/-!
DEFINITION. The decoder: from an item the environment presents to an operation, or a rejection by name. The five wire
formats are read by the layouts of rules R81 to R85 and the assembly of R86; the parser is the one the item names,
chosen by the transport from direction and phase (R245). An operation, or a typed message, stands for itself (R97, R240).
After it the encoder, and the reading of one word of spec/opcode_table.json.
-/

namespace Sys2Proof

open Sys2Proof.Machine

/-- A control reply by its kind byte: 0x06 is `ACK`, 0x21 is `NAK`, anything else is reserved (R85, R91, R100). -/
def decodeCtrl (kind : Byte) (num : U16) : Instr :=
  if kind = Config.ackKind then .ack num
  else if kind = Config.nakKind then .nak num
  else .ctrlRsvd kind num

/-- The bytes of a frame that comes without an envelope: the header selects the row, the trailer is found by counting from
the end (R81, R96, R100). Whether the frame is right is the codec's question, not the decoder's (R92), so bytes that are
too short for the row or have another header than its `16 16 02` are given to `DECODE`, which reports `TOO_SHORT`,
`TOO_LONG` or `BAD_HEADER`. DESIGN CHOICE, notes/assumptions/9.md: the spec has no frame without an envelope, so what such
bytes do is the model's. -/
def decodeFrameRow (bytes : Bytes) : Instr :=
  if Config.minFrame ≤ bytes.length ∧ bytes.take 3 = [Config.sync, Config.sync, Config.stx] then
    .frame ((bytes.drop 3).take (bytes.length - 6)) (byteAt bytes (bytes.length - 3))
      (fromBe16 (byteAt bytes (bytes.length - 2)) (byteAt bytes (bytes.length - 1)))
  else .decode bytes

/-- A control reply while the handshake reply is awaited: kind 0x06 is `HSACK` (R84), any other kind is the control reply
it is anywhere, since `PARSE_CTRL` reads everything from receiver to sender (R245) and the engine ignores it (R93). -/
def decodeReply (kind : Byte) (num : U16) : Instr :=
  if kind = Config.ackKind then .hsack num else decodeCtrl kind num

/-- One channel message of a given format (R80 to R86): its bytes and no others. -/
def decodeWire (fmt : Format) (bytes : Bytes) : Except Reject Instr :=
  match fmt with
  | .frame => .ok (decodeFrameRow bytes)
  | .env =>
    match readEnv bytes with
    | some (idx, last, frame, []) => .ok (.env idx last frame)
    | some (_, _, _, _ :: _) => .error .wrongLength
    | none => .error .wrongLength
  | .hs =>
    match readHs bytes with
    | some (n, w, []) => .ok (.hs n w)
    | some (_, _, _ :: _) => .error .wrongLength
    | none => .error .wrongLength
  | .hsr =>
    match readCtrl bytes with
    | some (kind, num, []) => .ok (decodeReply kind num)
    | some (_, _, _ :: _) => .error .wrongLength
    | none => .error .wrongLength
  | .ctrl =>
    match readCtrl bytes with
    | some (kind, num, []) => .ok (decodeCtrl kind num)
    | some (_, _, _ :: _) => .error .wrongLength
    | none => .error .wrongLength

/-- The operation an item stands for, or why it is none. -/
def decode (maxChunk : Option Nat) (it : Item) : Except Reject Instr :=
  match it with
  | .wire fmt bytes => decodeWire fmt bytes
  | .op i => if i.wellFormed maxChunk then .ok i else .error .illFormed

/-- The encoder: the bytes of a wire-format row (R81 to R85), or the operation itself. An envelope whose frame is too long
for `LEN` has no bytes and stays a typed message (notes/assumptions/25.md). -/
def encode (i : Instr) : Item :=
  match i with
  | .frame body etx csum => .wire .frame (frameBytes body etx csum)
  | .env idx last frame =>
    if lenFits frame then .wire .env (be32 (lenField frame) ++ be16 idx ++ [last] ++ frame) else .op (.env idx last frame)
  | .hs n w => .wire .hs (be32 n ++ be32 w)
  | .hsack p => .wire .hsr (Config.ackKind :: be16 p)
  | .ack num => .wire .ctrl (Config.ackKind :: be16 num)
  | .nak num => .wire .ctrl (Config.nakKind :: be16 num)
  | .ctrlRsvd kind num => .wire .ctrl (kind :: be16 num)
  | .stuff x => .op (.stuff x)
  | .unstuff y => .op (.unstuff y)
  | .csum16 y => .op (.csum16 y)
  | .encode c => .op (.encode c)
  | .decode f => .op (.decode f)
  | .seqOf k => .op (.seqOf k)
  | .seqInc => .op .seqInc
  | .islastOf k n => .op (.islastOf k n)
  | .winInit n w => .op (.winInit n w)
  | .winHi => .op .winHi
  | .winFill => .op .winFill
  | .winAck num => .op (.winAck num)
  | .winAdvance => .op .winAdvance
  | .winDone => .op .winDone
  | .acked k => .op (.acked k)
  | .rxMark idx c => .op (.rxMark idx c)
  | .rxComplete => .op .rxComplete
  | .nakOnce idx => .op (.nakOnce idx)
  | .idxValid idx => .op (.idxValid idx)
  | .retryTake e => .op (.retryTake e)
  | .memRead a k => .op (.memRead a k)
  | .memWrite w => .op (.memWrite w)
  | .concat r n => .op (.concat r n)
  | .serCtrl kind num => .op (.serCtrl kind num)
  | .parseCtrl m => .op (.parseCtrl m)
  | .serEnv idx last frame => .op (.serEnv idx last frame)
  | .parseEnv m => .op (.parseEnv m)
  | .serHs n w => .op (.serHs n w)
  | .parseHs m => .op (.parseHs m)
  | .send e k => .op (.send e k)
  | .fill => .op .fill
  | .resendAll => .op .resendAll
  | .swsStart n chunks => .op (.swsStart n chunks)
  | .swsSend => .op .swsSend
  | .swsAck num => .op (.swsAck num)
  | .swsNak num => .op (.swsNak num)
  | .swsTimeout => .op .swsTimeout
  | .swsRsvd kind num => .op (.swsRsvd kind num)
  | .swrStart => .op .swrStart
  | .swrDataValidFirst idx last frame => .op (.swrDataValidFirst idx last frame)
  | .swrDataValidDup idx last frame => .op (.swrDataValidDup idx last frame)
  | .swrDataInvalid idx last frame => .op (.swrDataInvalid idx last frame)
  | .swrLast idx => .op (.swrLast idx)
  | .swrHandoff => .op .swrHandoff
  | .srsStart n w chunks => .op (.srsStart n w chunks)
  | .srsHsack p => .op (.srsHsack p)
  | .srsAck num => .op (.srsAck num)
  | .srsNak num => .op (.srsNak num)
  | .srsTimeout => .op .srsTimeout
  | .srsRsvd kind num => .op (.srsRsvd kind num)
  | .srrStart => .op .srrStart
  | .srrHs n w => .op (.srrHs n w)
  | .srrHsMalformed n w => .op (.srrHsMalformed n w)
  | .srrDataOor idx last frame => .op (.srrDataOor idx last frame)
  | .srrDataValidFirst idx last frame => .op (.srrDataValidFirst idx last frame)
  | .srrDataValidDup idx last frame => .op (.srrDataValidDup idx last frame)
  | .srrDataInvalid idx last frame => .op (.srrDataInvalid idx last frame)
  | .reset => .op .reset
  | .startCommon r => .op (.startCommon r)
  | .stop => .op .stop
  | .transportFail => .op .transportFail
  | .timeout => .op .timeout
  | .ignore => .op .ignore
  | .txHs n w => .op (.txHs n w)
  | .txData idx last frame => .op (.txData idx last frame)
  | .txCtrl kind num => .op (.txCtrl kind num)
  | .sink bytes => .op (.sink bytes)

/-! ## One word of the opcode table -/

/-- The `k` bytes of a number, most significant byte first: the table's patterns give the most significant bit of the
first byte first (R100). -/
def wordBytes : Nat → Nat → Bytes
  | 0, _ => []
  | k + 1, w => BitVec.ofNat 8 (w / 256 ^ k) :: wordBytes k w

/-- The number whose bits select the row `FRAME`: `16 16 02` (R81, table row `FRAME`). -/
def frameHeaderWord : Nat := 0x161602

/-- The channel message whose first `nbits` bits are `w` and whose other bits are 0: 24 bits are a frame header or a
control reply, 56 an envelope header (with as many zero frame bytes as its `LEN` says), 64 a handshake. A frame is
filled up to the shortest one. No other row of the table has a binary code (R97). -/
def tableItem (nbits w : Nat) : Option Item :=
  if nbits = 24 then
    if w = frameHeaderWord then some (.wire .frame (wordBytes 3 w ++ [0, 0, 0]))
    else some (.wire .ctrl (wordBytes 3 w))
  else if nbits = 56 then some (.wire .env (wordBytes 7 w ++ List.replicate (w / 2 ^ 24 % 2 ^ 32) 0))
  else if nbits = 64 then some (.wire .hs (wordBytes 8 w))
  else none

/-- The instruction the decoder reads from a word of the opcode table. `HSACK` and `ACK` have the same bytes and are told
apart by the session phase alone (R84, R245); with no phase the word reads as `ACK`. -/
def decodeTableWord (nbits w : Nat) : Option Instr :=
  match tableItem nbits w with
  | none => none
  | some it =>
    match decode none it with
    | .ok i => some i
    | .error _ => none

end Sys2Proof
end

