-- ==== Sys2Proof/Machine/Flags.lean ====
section
/-!
DEFINITION. The one-bit values the rules test (R28): the block has no condition-code register. Each predicate is a
function of the registers named by its rule. Also the numeric codes of `RXSTAT` and `ERR` (R261, R262).
-/

namespace Sys2Proof.Machine

/-- Bit `i` of a bit array; an unlisted bit is 0 (R30). -/
def readBit (l : BitArray) (i : Nat) : Bool := l.contains i

/-- Entry `i` of a reassembly buffer; `none` is `ABSENT` (R10, R31). -/
def readEntry (l : EntryArray) (i : Nat) : Option Bytes := l.lookup i

/-- `ISLAST_OF(i, N)`: `i = N - 1` over the integers (R165). -/
def isLastOf (i n : Nat) : Bool := decide (i + 1 = n)

/-- `IDX_VALID(idx)`: `idx < N` of the Selective-Repeat receiver (R163). -/
def idxValid (r : Srr) (idx : U16) : Bool := decide (idx.toNat < r.n)

/-- `ACKED(i)`: sent and no longer outstanding (R159). -/
def acked (e : Srs) (i : Nat) : Bool := decide (i < e.nextSeq) && !readBit e.outst i

/-- `WIN_DONE`: `WINBASE >= N` and `OUTST` has no bit set (R157). -/
def winDone (e : Srs) : Bool := decide (e.n ≤ e.winBase) && e.outst.isEmpty

/-- `RX_COMPLETE`: `(RCOUNT = N or LASTSEEN = 1)` and all `N` flags are 1 (R161). -/
def rxComplete (r : Srr) : Bool :=
  (decide (r.rcount = r.n) || r.lastSeen) && (List.range r.n).all (readBit r.flags)

/-- The entries `0 .. n-1` of a buffer are all present (R73, R188). -/
def entriesPresent (rb : EntryArray) (n : Nat) : Bool := (List.range n).all fun j => (readEntry rb j).isSome

/-- The engine `MODE` names (R20, R21). -/
def activeEngine : Mode → Option Engine
  | .none => none
  | .swTx => some .sws
  | .swRx => some .swr
  | .srTx => some .srs
  | .srRx => some .srr

/-- `SWS` is in a non-terminal state other than `Idle` (R22, R269). -/
def SwsSt.running : SwsSt → Bool
  | .awaitingAck => true
  | .idle | .done | .failed | .stopped => false

/-- `SWR` is in a non-terminal state other than `Idle` (R22, R269). -/
def SwrSt.running : SwrSt → Bool
  | .receiving => true
  | .idle | .done | .failed | .stopped => false

/-- `SRS` is in a non-terminal state other than `Idle` (R22, R269). -/
def SrsSt.running : SrsSt → Bool
  | .awaitHsAck | .awaitReply => true
  | .idle | .done | .failed | .stopped => false

/-- `SRR` is in a non-terminal state other than `Idle` (R22, R269). -/
def SrrSt.running : SrrSt → Bool
  | .awaitHs | .receiving => true
  | .idle | .done | .failed | .stopped => false

/-- Engine `e` is in a non-terminal state other than `Idle` (R269). -/
def running (e : Engine) (s : State) : Bool :=
  match e with
  | .sws => s.sws.st.running
  | .swr => s.swr.st.running
  | .srs => s.srs.st.running
  | .srr => s.srr.st.running

/-- The numeric code of a frame status (R261). -/
def RxStat.code : RxStat → Nat
  | .ok => 0
  | .tooShort => 1
  | .badHeader => 2
  | .badTrailer => 3
  | .badChecksum => 4
  | .tooLong => 5
  | .outOfRange => 6

/-- The numeric code of an error (R262). -/
def Err.code : Err → Nat
  | .none => 0
  | .transportFailure => 1
  | .malformedHandshake => 2
  | .retryExhausted => 3
  | .incompleteReassembly => 4

end Sys2Proof.Machine
end

