-- ==== Sys2Proof/Machine/Ops.lean ====
section
/-!
DEFINITION. The named operations over the state: record updates, storage arrays in canonical form (R10, R60 to R64,
R73), emitting a message (R11), the fatal-error entry (R266), `STOP` (R269) and the one way back, `RESET` (R267, R291).
-/

namespace Sys2Proof.Machine

/-! ## Outcomes -/

/-- A state or a fault; what an operation that reads storage gives. -/
abbrev Res := Except Fault State

/-- The outcome of a meaning. -/
def Res.outcome (r : Res) : Host.Outcome State Fault Refusal :=
  match r with
  | .ok s => .next s
  | .error e => .fault e

/-! ## Record updates -/

/-- `MODE <- m` (R10). -/
def State.setMode (s : State) (m : Mode) : State := { s with mode := m }
/-- Writes the record `SWS`. -/
def State.setSws (s : State) (e : Sws) : State := { s with sws := e }
/-- Writes the record `SWR`. -/
def State.setSwr (s : State) (e : Swr) : State := { s with swr := e }
/-- Writes the record `SRS`. -/
def State.setSrs (s : State) (e : Srs) : State := { s with srs := e }
/-- Writes the record `SRR`. -/
def State.setSrr (s : State) (e : Srr) : State := { s with srr := e }
/-- The result of a function operation. -/
def State.setRet (s : State) (r : Ret) : State := { s with ret := r }
/-- `emit m`: appends `m` to the output messages (R11). -/
def State.emit (s : State) (m : Message) : State := { s with tx := s.tx ++ [m] }
/-- One more free value has been used. -/
def State.bumpFree (s : State) : State := { s with free := s.free + 1 }
/-- What is still to be consumed. -/
def State.setInput (s : State) (l : List Item) : State := { s with input := l }

/-! ## Storage arrays -/

/-- A bit array in canonical form: indices strictly rising. -/
abbrev BitArray.wf (l : BitArray) : Prop := l.Pairwise (· < ·)

/-- A reassembly buffer in canonical form: indices strictly rising. An `ABSENT` entry cannot be listed. -/
abbrev EntryArray.wf (l : EntryArray) : Prop := (l.map Prod.fst).Pairwise (· < ·)

/-- Every storage array of the state is in canonical form, so that equal contents are equal data. -/
abbrev Memory.wf (s : State) : Prop :=
  EntryArray.wf s.swr.rb ∧ EntryArray.wf s.srr.rb ∧ BitArray.wf s.srs.outst ∧ BitArray.wf s.srr.flags ∧
    BitArray.wf s.srr.nakSent

/-- Bit `i` becomes 1 (R10). -/
def setBit : BitArray → Nat → BitArray
  | [], i => [i]
  | j :: r, i => if i < j then i :: j :: r else if i = j then j :: r else j :: setBit r i

/-- Bit `i` becomes 0 (R10). -/
def clearBit (l : BitArray) (i : Nat) : BitArray := l.filter fun j => decide (j ≠ i)

/-- `MemWrite` on a bit array (R10). -/
def writeBit (l : BitArray) (i : Nat) (b : Bool) : BitArray := if b then setBit l i else clearBit l i

/-- Store-if-absent: the entry is written only when it is `ABSENT` (R64). -/
def storeIfAbsent : EntryArray → Nat → Bytes → EntryArray
  | [], i, c => [(i, c)]
  | (j, d) :: r, i, c =>
    if i < j then (i, c) :: (j, d) :: r else if i = j then (j, d) :: r else (j, d) :: storeIfAbsent r i c

/-- How many elements an array has (R30, R31, R60). -/
def arrayLen (a : ArrayName) (s : State) : Nat :=
  match a with
  | .swsChunk => s.sws.chunk.length
  | .srsChunk => s.srs.chunk.length
  | .swrRb => Config.nMax
  | .srrRb => s.srr.n
  | .outst => s.srs.n
  | .flags => s.srr.n
  | .nakSent => s.srr.n

/-- `MemRead(ARRAY, i)` of an element that exists (R10, R63). -/
def readElement (a : ArrayName) (i : Nat) (s : State) : Ret :=
  match a with
  | .swsChunk => .entry s.sws.chunk[i]?
  | .srsChunk => .entry s.srs.chunk[i]?
  | .swrRb => .entry (readEntry s.swr.rb i)
  | .srrRb => .entry (readEntry s.srr.rb i)
  | .outst => .bit (readBit s.srs.outst i)
  | .flags => .bit (readBit s.srr.flags i)
  | .nakSent => .bit (readBit s.srr.nakSent i)

/-- The array a `MemWrite` names. -/
def storeArray : Store → ArrayName
  | .swrRb .. => .swrRb
  | .srrRb .. => .srrRb
  | .outst .. => .outst
  | .flags .. => .flags
  | .nakSent .. => .nakSent

/-- The element a `MemWrite` names. -/
def storeIndex : Store → Nat
  | .swrRb i _ => i
  | .srrRb i _ => i
  | .outst i _ => i
  | .flags i _ => i
  | .nakSent i _ => i

/-- `MemWrite(ARRAY, i, v)` of an element that exists (R10, R63, R64). -/
def writeElement (w : Store) (s : State) : State :=
  match w with
  | .swrRb i c => s.setSwr { s.swr with rb := storeIfAbsent s.swr.rb i c }
  | .srrRb i c => s.setSrr { s.srr with rb := storeIfAbsent s.srr.rb i c }
  | .outst i b => s.setSrs { s.srs with outst := writeBit s.srs.outst i b }
  | .flags i b => s.setSrr { s.srr with flags := writeBit s.srr.flags i b }
  | .nakSent i b => s.setSrr { s.srr with nakSent := writeBit s.srr.nakSent i b }

/-- `concat(RB, n) = RB[0] ++ ... ++ RB[n-1]` where the entries are present; `none` where one is `ABSENT` (R73). -/
def concatFrom (rb : EntryArray) : Nat → Option Bytes
  | 0 => some []
  | n + 1 =>
    match concatFrom rb n, readEntry rb n with
    | some x, some c => some (x ++ c)
    | _, _ => none

/-- `concat(RB, n)`, with a free value where the spec does not define it (R73; notes/assumptions/5.md). -/
def concatOr (rb : EntryArray) (n : Nat) (s : State) : Bytes × State :=
  match concatFrom rb n with
  | some x => (x, s)
  | none => (Config.freeBytes s.free, s.bumpFree)

/-! ## Taking an error, stopping, and the way back -/

/-- `raise E` for engine `X`: `X.ERR <- E; X.ST <- Failed`; every other register and array keeps its value (R11, R266). -/
def raiseError (x : Engine) (err : Err) (s : State) : State :=
  match x with
  | .sws => s.setSws { s.sws with st := .failed, err := err }
  | .swr => s.setSwr { s.swr with st := .failed, err := err }
  | .srs => s.setSrs { s.srs with st := .failed, err := err }
  | .srr => s.setSrr { s.srr with st := .failed, err := err }

/-- `E.ST <- Stopped`; every other register and array keeps its value (R269). -/
def stopEngine (x : Engine) (s : State) : State :=
  match x with
  | .sws => s.setSws { s.sws with st := .stopped }
  | .swr => s.setSwr { s.swr with st := .stopped }
  | .srs => s.setSrs { s.srs with st := .stopped }
  | .srr => s.setSrr { s.srr with st := .stopped }

/-- `RESET`, the only way out of a terminal state (R248, R267, R291): every element of the record of R20 takes its reset
value; the parameters and the messages in flight stay. -/
def resetOp (s : State) : State :=
  { s with mode := .none, sws := Sws.reset, swr := Swr.reset, srs := Srs.reset, srr := Srr.reset }

/-- `STOP`: the active engine, if it is in a non-terminal state other than `Idle`, becomes `Stopped` (R269). -/
def stopOp (s : State) : State :=
  match activeEngine s.mode with
  | none => s
  | some e => if running e s then stopEngine e s else s

/-- `TRANSPORT_FAIL`: under the condition of `STOP`, the fatal-error entry with `TransportFailure` (R270). -/
def transportFailOp (s : State) : State :=
  match activeEngine s.mode with
  | none => s
  | some e => if running e s then raiseError e .transportFailure s else s

/-! ## Sending one packet -/

/-- The chunk array of a sender (R31). -/
def senderChunks (e : Sender) (s : State) : List Bytes :=
  match e with
  | .sws => s.sws.chunk
  | .srs => s.srs.chunk

/-- The packet count of a sender (R24, R26). -/
def senderN (e : Sender) (s : State) : Nat :=
  match e with
  | .sws => s.sws.n
  | .srs => s.srs.n

/-- The name of a sender's chunk array. -/
def senderArray : Sender → ArrayName
  | .sws => .swsChunk
  | .srs => .srsChunk

/-- The `TX_DATA` of packet `k` with chunk `c` in a stream of `n` packets (R87, R99, R165, R172). -/
def dataMessage (n k : Nat) (c : Bytes) : Message := .data (idxField k) (isLastOf k n) (encodeFrame c)

/-- `SEND(k)`: `emit TX_DATA(k, ISLAST_OF(k, N), ENCODE(MemRead(CHUNK, k)))` (R99). -/
def sendPacket (e : Sender) (k : Nat) (s : State) : Res :=
  match (senderChunks e s)[k]? with
  | none => .error (.noSuchElement (senderArray e) k)
  | some c => .ok (s.emit (dataMessage (senderN e s) k c))

/-- `SEND(k)` for each `k` of a list, in its order (R99). -/
def sendAll (e : Sender) : List Nat → State → Res
  | [], s => .ok s
  | k :: r, s =>
    match sendPacket e k s with
    | .error x => .error x
    | .ok s' => sendAll e r s'

/-- The retry register of a sender (R24, R26). -/
def retryOf (e : Sender) (s : State) : Nat :=
  match e with
  | .sws => s.sws.retry
  | .srs => s.srs.retry

/-- Writes the retry register of a sender. -/
def setRetry (e : Sender) (k : Nat) (s : State) : State :=
  match e with
  | .sws => s.setSws { s.sws with retry := k }
  | .srs => s.setSrs { s.srs with retry := k }

/-- The engine a sender is. -/
def senderEngine : Sender → Engine
  | .sws => .sws
  | .srs => .srs

/-- The retry budget is spent: `E.RETRY >= RETRY_LIMIT`, never when the limit is unbounded (R164). -/
def retrySpent (e : Sender) (s : State) : Bool :=
  match s.par.retryLimit with
  | none => false
  | some k => decide (k ≤ retryOf e s)

/-- `RETRY_TAKE(E)` followed by the rest of its step: `RetryExhausted` ends the step with the budget spent, else the
register is incremented and the step goes on (R164, R272). -/
def retryThen (e : Sender) (s : State) (go : State → Res) : Res :=
  if retrySpent e s then .ok (raiseError (senderEngine e) .retryExhausted s)
  else go (setRetry e (retryOf e s + 1) s)

end Sys2Proof.Machine
end

