-- ==== Sys2Proof/Machine/CodecOps.lean ====
section
/-!
DEFINITION. The meanings of the codec operations (rules R121 to R125), the storage operations (R10, R63, R64, R73), the
serialisers and parsers (R242 to R244) and the pseudo-operation `SEND` (R99) as operations of their own. A function
operation puts its result in `State.ret` and changes nothing else (R132).
-/

namespace Sys2Proof.Machine

/-- STUFF (R121). -/
def execStuff (x : Bytes) (s : State) : Host.Outcome State Fault Refusal := .next (s.setRet (.bytes (stuff x)))

/-- UNSTUFF (R122). -/
def execUnstuff (y : Bytes) (s : State) : Host.Outcome State Fault Refusal := .next (s.setRet (.bytes (unstuff y)))

/-- CSUM16 (R123). -/
def execCsum16 (y : Bytes) (s : State) : Host.Outcome State Fault Refusal := .next (s.setRet (.word (csum16 y)))

/-- ENCODE (R124). -/
def execEncode (c : Bytes) (s : State) : Host.Outcome State Fault Refusal := .next (s.setRet (.bytes (encodeFrame c)))

/-- What `DECODE` returns, as a result (R125). -/
def decodedRet (d : Decoded) : Ret := .decoded d.chunk d.valid d.status

/-- DECODE (R125). -/
def execDecode (f : Bytes) (s : State) : Host.Outcome State Fault Refusal :=
  .next (s.setRet (decodedRet (decodeFrame s.par.maxChunk f)))

/-- MemRead (R10, R63): an element that exists is returned; no read has a side effect. -/
def execMemRead (a : ArrayName) (i : Nat) (s : State) : Host.Outcome State Fault Refusal :=
  if i < arrayLen a s then .next (s.setRet (readElement a i s)) else .fault (.noSuchElement a i)

/-- MemWrite (R10, R64): an element that exists is written; an entry of a reassembly buffer only when it is `ABSENT`. -/
def execMemWrite (w : Store) (s : State) : Host.Outcome State Fault Refusal :=
  if storeIndex w < arrayLen (storeArray w) s then .next (writeElement w s)
  else .fault (.noSuchElement (storeArray w) (storeIndex w))

/-- The reassembly buffer of a receiver (R31). -/
def receiverRb (r : Receiver) (s : State) : EntryArray :=
  match r with
  | .swr => s.swr.rb
  | .srr => s.srr.rb

/-- concat (R73). -/
def execConcat (r : Receiver) (n : Nat) (s : State) : Host.Outcome State Fault Refusal :=
  .next ((concatOr (receiverRb r s) n s).2.setRet (.bytes (concatOr (receiverRb r s) n s).1))

/-- SER_CTRL (R242). -/
def execSerCtrl (kind : Byte) (num : U16) (s : State) : Host.Outcome State Fault Refusal :=
  .next (s.setRet (.bytes (serCtrl kind num)))

/-- The event `PARSE_CTRL` yields, and what it leaves of the stream (R242, R245). The rule states it for three bytes; other
lengths are notes/assumptions/12.md. -/
def parseCtrlRet (m : Bytes) : Ret :=
  match readCtrl m with
  | some (kind, num, rest) => .event (.rxCtrl kind num) rest
  | none => .incomplete

/-- PARSE_CTRL (R242). -/
def execParseCtrl (m : Bytes) (s : State) : Host.Outcome State Fault Refusal := .next (s.setRet (parseCtrlRet m))

/-- SER_ENV (R243). -/
def execSerEnv (idx : U16) (last : Bool) (frame : Bytes) (s : State) : Host.Outcome State Fault Refusal :=
  .next (s.setRet (.bytes (serEnv idx last frame)))

/-- The event `PARSE_ENV` yields, and what it leaves of the stream (R243). -/
def parseEnvRet (m : Bytes) : Ret :=
  match readEnv m with
  | some (idx, b, frame, rest) => .event (.rxData idx (lastOfByte b) frame) rest
  | none => .incomplete

/-- PARSE_ENV (R243). -/
def execParseEnv (m : Bytes) (s : State) : Host.Outcome State Fault Refusal := .next (s.setRet (parseEnvRet m))

/-- SER_HS (R244). -/
def execSerHs (n w : I32) (s : State) : Host.Outcome State Fault Refusal := .next (s.setRet (.bytes (serHs n w)))

/-- The event `PARSE_HS` yields, and what it leaves of the stream (R244, R245). The rule states it for eight bytes; other
lengths are notes/assumptions/12.md. -/
def parseHsRet (m : Bytes) : Ret :=
  match readHs m with
  | some (n, w, rest) => .event (.rxHs n w) rest
  | none => .incomplete

/-- PARSE_HS (R244). -/
def execParseHs (m : Bytes) (s : State) : Host.Outcome State Fault Refusal := .next (s.setRet (parseHsRet m))

/-- SEND (R99). -/
def execSend (e : Sender) (i : Nat) (s : State) : Host.Outcome State Fault Refusal := (sendPacket e i s).outcome

end Sys2Proof.Machine
end

