-- ==== Sys2Proof/Machine/SeqWin.lean ====
section
/-!
DEFINITION. The sequence-number tracker and window manager (rules R150 to R165): the sub-operations the engines are
built from, and the meaning of each as an operation of its own.
-/

namespace Sys2Proof.Machine

/-! ## The sub-operations -/

/-- `SEQ_OF(i) = i mod 256` (R150). -/
def seqOf (i : Nat) : Byte := BitVec.ofNat 8 (i % Config.seqMod)

/-- `SEQ_INC`: `SWS.CURRSEQ <- (SWS.CURRSEQ + 1) mod 256` (R151). -/
def seqInc (s : State) : State :=
  s.setSws { s.sws with currSeq := BitVec.ofNat 8 ((s.sws.currSeq.toNat + 1) % Config.seqMod) }

/-- `WIN_INIT(n, w)` (R152). -/
def winInit (n w : Nat) (s : State) : State :=
  s.setSrs { s.srs with n := n, w := w, winBase := 0, nextSeq := 0, outst := [] }

/-- `WIN_HI = min(N, WINBASE + W)`, without wrap-around (R153, R305). -/
def winHi (e : Srs) : Nat := min e.n (e.winBase + e.w)

/-- The loop of `WIN_FILL`: packet `k` and the `count - 1` after it are sent, ascending, each marked outstanding once
its message is out (R154). -/
def fillLoop : Nat → Nat → State → Res
  | 0, _, s => .ok s
  | count + 1, k, s =>
    match sendPacket .srs k s with
    | .error x => .error x
    | .ok s' => fillLoop count (k + 1) (s'.setSrs { s'.srs with outst := setBit s'.srs.outst k })

/-- `WIN_FILL` (R154). -/
def winFill (s : State) : Res :=
  let hi := winHi s.srs
  match fillLoop (hi - s.srs.nextSeq) s.srs.nextSeq s with
  | .error x => .error x
  | .ok s' => .ok (if s.srs.nextSeq < hi then s'.setSrs { s'.srs with nextSeq := hi } else s')

/-- The result of `WIN_ACK(s)`: the index is in range and outstanding (R155). -/
def winAckHit (e : Srs) (num : U16) : Bool := decide (num.toNat < e.n) && readBit e.outst num.toNat

/-- `WIN_ACK(s)`: an outstanding index leaves the outstanding set; any other number changes nothing (R155). -/
def winAck (num : U16) (s : State) : State :=
  if winAckHit s.srs num then s.setSrs { s.srs with outst := clearBit s.srs.outst num.toNat } else s

/-- The loop of `WIN_ADVANCE`, from `base` for at most `room` indices: it stops at the first outstanding one (R156). -/
def advanceFrom (outst : BitArray) : Nat → Nat → Nat
  | 0, base => base
  | room + 1, base => if readBit outst base then base else advanceFrom outst room (base + 1)

/-- `WIN_ADVANCE`: `while WINBASE < NEXTSEQ and OUTST[WINBASE] = 0: WINBASE <- WINBASE + 1` (R156, conflict C6). -/
def winAdvance (s : State) : State :=
  s.setSrs { s.srs with
    winBase := advanceFrom s.srs.outst (s.srs.nextSeq - s.srs.winBase) s.srs.winBase }

/-- The result of `RX_MARK`: a first delivery (R160). -/
def rxMarkFirst (idx : U16) (s : State) : Bool := !readBit s.srr.flags idx.toNat

/-- `RX_MARK(idx, c)`: a first delivery is stored, flagged and counted; a duplicate changes nothing (R160). -/
def rxMark (idx : U16) (c : Bytes) (s : State) : State :=
  if rxMarkFirst idx s then
    s.setSrr { s.srr with
      rb := storeIfAbsent s.srr.rb idx.toNat c, flags := setBit s.srr.flags idx.toNat, rcount := s.srr.rcount + 1 }
  else s

/-- The result of `NAK_ONCE`: no `NAK` has been sent for the index (R162). -/
def nakOnceFirst (idx : U16) (s : State) : Bool := !readBit s.srr.nakSent idx.toNat

/-- `NAK_ONCE(idx)`: the test-and-set on `NAKSENT` (R162). -/
def nakOnce (idx : U16) (s : State) : State :=
  if nakOnceFirst idx s then s.setSrr { s.srr with nakSent := setBit s.srr.nakSent idx.toNat } else s

/-! ## Meanings -/

/-- SEQ_OF (R150): the result is the wire sequence number. -/
def execSeqOf (i : U16) (s : State) : Host.Outcome State Fault Refusal := .next (s.setRet (.tag (seqOf i.toNat)))

/-- SEQ_INC (R151). -/
def execSeqInc (s : State) : Host.Outcome State Fault Refusal := .next (seqInc s)

/-- ISLAST_OF (R165). -/
def execIslastOf (i n : Nat) (s : State) : Host.Outcome State Fault Refusal := .next (s.setRet (.bool (isLastOf i n)))

/-- WIN_INIT (R152). -/
def execWinInit (n w : Nat) (s : State) : Host.Outcome State Fault Refusal := .next (winInit n w s)

/-- WIN_HI (R153). -/
def execWinHi (s : State) : Host.Outcome State Fault Refusal := .next (s.setRet (.count (winHi s.srs)))

/-- WIN_FILL (R154). -/
def execWinFill (s : State) : Host.Outcome State Fault Refusal := (winFill s).outcome

/-- WIN_ACK (R155): the result says whether there was progress. -/
def execWinAck (num : U16) (s : State) : Host.Outcome State Fault Refusal :=
  .next ((winAck num s).setRet (.bool (winAckHit s.srs num)))

/-- WIN_ADVANCE (R156). -/
def execWinAdvance (s : State) : Host.Outcome State Fault Refusal := .next (winAdvance s)

/-- WIN_DONE (R157). -/
def execWinDone (s : State) : Host.Outcome State Fault Refusal := .next (s.setRet (.bool (winDone s.srs)))

/-- ACKED (R159). -/
def execAcked (i : Nat) (s : State) : Host.Outcome State Fault Refusal := .next (s.setRet (.bool (acked s.srs i)))

/-- RX_MARK (R160): its operand is an index with `IDX_VALID(idx)`; the arrays have no element for any other (R30). -/
def execRxMark (idx : U16) (c : Bytes) (s : State) : Host.Outcome State Fault Refusal :=
  if idxValid s.srr idx then .next ((rxMark idx c s).setRet (.bool (rxMarkFirst idx s)))
  else .fault (.noSuchElement .flags idx.toNat)

/-- RX_COMPLETE (R161). -/
def execRxComplete (s : State) : Host.Outcome State Fault Refusal := .next (s.setRet (.bool (rxComplete s.srr)))

/-- NAK_ONCE (R162): its operand is an index with `IDX_VALID(idx)`, as for `RX_MARK`. -/
def execNakOnce (idx : U16) (s : State) : Host.Outcome State Fault Refusal :=
  if idxValid s.srr idx then .next ((nakOnce idx s).setRet (.bool (nakOnceFirst idx s)))
  else .fault (.noSuchElement .nakSent idx.toNat)

/-- IDX_VALID (R163). -/
def execIdxValid (idx : U16) (s : State) : Host.Outcome State Fault Refusal :=
  .next (s.setRet (.bool (idxValid s.srr idx)))

/-- RETRY_TAKE (R164): the operation on its own, with nothing after it in the step. -/
def execRetryTake (e : Sender) (s : State) : Host.Outcome State Fault Refusal := (retryThen e s .ok).outcome

end Sys2Proof.Machine
end

