-- ==== Sys2Proof/Machine/SelRepeat.lean ====
section
/-!
DEFINITION. The Selective-Repeat engine (rules R200 to R227): sender `SRS`, receiver `SRR`, and the pseudo-operations
`FILL` and `RESEND_ALL` of the sender (R99). First the operations, each guarded by the state condition of its rule,
outside which the default arm leaves the state as it is (R258); then the meanings.
-/

namespace Sys2Proof.Machine

/-! ## Sender -/

/-- `SRS.START(N, W, chunks)` (R201): accepted only with `MODE = NONE` (R249); an illegal `N` or `W` is
`MalformedHandshake` and nothing is sent (R271); legal ones write every register of `SRS` (R26, R152, R292) and send the
handshake. -/
def srsStart (n w : I32) (chunks : List Bytes) (s : State) : State :=
  if s.mode = .none then
    if legalN n && legalW w then
      let t := winInit n.toInt.toNat w.toInt.toNat (s.setMode .srTx)
      (t.setSrs { t.srs with st := .awaitHsAck, retry := 0, err := .none, chunk := chunks }).emit (.hs n w)
    else raiseError .srs .malformedHandshake (s.setMode .srTx)
  else s

/-- `SRS.HSACK(p)` in `AwaitHsAck`: the first fill; the placeholder is ignored (R202, R93). -/
def srsHsack (s : State) : Res :=
  if s.srs.st = .awaitHsAck then
    match winFill s with
    | .error x => .error x
    | .ok t => .ok (t.setSrs { t.srs with st := .awaitReply })
  else .ok s

/-- `WIN_ACK(s)`, the reset of the retry budget on progress, and `WIN_ADVANCE` (R203). -/
def srsAckWindow (num : U16) (s : State) : State :=
  winAdvance (if winAckHit s.srs num then setRetry .srs 0 (winAck num s) else winAck num s)

/-- `SRS.ACK(s)` in `AwaitReply` (R203, R206). -/
def srsAck (num : U16) (s : State) : Res :=
  if s.srs.st = .awaitReply then
    let t := srsAckWindow num s
    if winDone t.srs then .ok (t.setSrs { t.srs with st := .done }) else winFill t
  else .ok s

/-- `SRS.NAK(s)` in `AwaitReply`: one retransmission of a packet that was sent (R204). -/
def srsNak (num : U16) (s : State) : Res :=
  if s.srs.st = .awaitReply then
    if s.srs.nextSeq ≤ num.toNat then .ok s else retryThen .srs s (sendPacket .srs num.toNat)
  else .ok s

/-- The indices `SRS.TIMEOUT` resends: the outstanding ones from `WINBASE` to `NEXTSEQ - 1`, ascending (R205). -/
def timeoutIndices (e : Srs) : List Nat :=
  e.outst.filter fun k => decide (e.winBase ≤ k) && decide (k < e.nextSeq)

/-- `SRS.TIMEOUT` in `AwaitReply` (R205). -/
def srsTimeout (s : State) : Res :=
  if s.srs.st = .awaitReply then retryThen .srs s (fun t => sendAll .srs (timeoutIndices t.srs) t) else .ok s

/-! ## Receiver -/

/-- `SRR.START` (R216): accepted only with `MODE = NONE` (R249); every other register is at its reset value (R27). -/
def srrStart (s : State) : State :=
  if s.mode = .none then (s.setMode .srRx).setSrr { Srr.reset with st := .awaitHs } else s

/-- `SRR.HS(n, w)` with legal values (R217). -/
def srrHsLegal (n w : I32) (s : State) : State :=
  (s.setSrr { s.srr with
    st := .receiving, n := n.toInt.toNat, w := w.toInt.toNat, rcount := 0, lastSeen := false, oor := false,
    rxStat := .ok, flags := [], nakSent := [], rb := [] }).emit (.ctrl Config.ackKind 0)

/-- `SRR.HS`, malformed: the fatal-error entry, no reply (R227, R271). -/
def srrHsBad (s : State) : State := raiseError .srr .malformedHandshake s

/-- The event `RX_HS` at `SRR` (R217, R227). -/
def srrHs (n w : I32) (s : State) : State :=
  if s.srr.st = .awaitHs then
    if legalN n && legalW w then srrHsLegal n w s else srrHsBad s
  else s

/-- `SRR.DATA`, index out of range (R218). -/
def srrOor (s : State) : State := s.setSrr { s.srr with oor := true, rxStat := .outOfRange }

/-- `if last then LASTSEEN <- 1; RXSTAT <- OK; ACK(idx)`: what a valid frame does after `RX_MARK` (R219, R220, R223). -/
def srrAccept (idx : U16) (last : Bool) (s : State) : State :=
  (s.setSrr { s.srr with lastSeen := s.srr.lastSeen || last, rxStat := .ok }).emit (.ctrl Config.ackKind idx)

/-- Completion: `SINK(concat(RB, N))` and `Done` when `RX_COMPLETE` (R219, R222). -/
def srrComplete (s : State) : State :=
  if rxComplete s.srr then
    let t := (concatOr s.srr.rb s.srr.n s).2.emit (.sink (concatOr s.srr.rb s.srr.n s).1)
    t.setSrr { t.srr with st := .done }
  else s

/-- `SRR.DATA`, valid, first delivery (R219). -/
def srrFirst (idx : U16) (last : Bool) (c : Bytes) (s : State) : State :=
  srrComplete (srrAccept idx last (rxMark idx c s))

/-- `SRR.DATA`, valid, duplicate: nothing is stored, nothing completes (R220). -/
def srrDup (idx : U16) (last : Bool) (s : State) : State := srrAccept idx last s

/-- `SRR.DATA`, invalid: the status, and a `NAK` the first time for the index (R221). -/
def srrBad (idx : U16) (status : RxStat) (s : State) : State :=
  let t := s.setSrr { s.srr with rxStat := status }
  if nakOnceFirst idx t then (nakOnce idx t).emit (.ctrl Config.nakKind idx) else t

/-- The cases of `SRR.DATA` (R218 to R221). -/
inductive SrrCase where
  | oor
  | first (c : Bytes)
  | dup
  | bad (status : RxStat)
  /-- No rule of `SRR` consumes the frame in this state (R258). -/
  | unused
  deriving DecidableEq, Repr

/-- Which case of `SRR.DATA` a frame with index `idx` is: the range check first, then `DECODE` (R224). -/
def srrCase (idx : U16) (frame : Bytes) (s : State) : SrrCase :=
  if s.srr.st = .receiving then
    if idxValid s.srr idx then
      let d := decodeFrame s.par.maxChunk frame
      if d.valid then (if readBit s.srr.flags idx.toNat then .dup else .first d.chunk) else .bad d.status
    else .oor
  else .unused

/-- The event `RX_DATA` at `SRR` (R224). -/
def srrData (idx : U16) (last : Bool) (frame : Bytes) (s : State) : State :=
  match srrCase idx frame s with
  | .oor => srrOor s
  | .first c => srrFirst idx last c s
  | .dup => srrDup idx last s
  | .bad status => srrBad idx status s
  | .unused => s

/-! ## Meanings -/

/-- FILL (R99): the pseudo-operation for `WIN_FILL`. -/
def execFill (s : State) : Host.Outcome State Fault Refusal := (winFill s).outcome

/-- RESEND_ALL (R99): `SEND(k)` for each outstanding `k`, ascending. -/
def execResendAll (s : State) : Host.Outcome State Fault Refusal := (sendAll .srs s.srs.outst s).outcome

/-- SRS.START (R201). -/
def execSrsStart (n w : I32) (chunks : List Bytes) (s : State) : Host.Outcome State Fault Refusal :=
  .next (srsStart n w chunks s)

/-- SRS.HSACK (R202): the placeholder is ignored. -/
def execSrsHsack (_p : U16) (s : State) : Host.Outcome State Fault Refusal := (srsHsack s).outcome

/-- SRS.ACK (R203). -/
def execSrsAck (num : U16) (s : State) : Host.Outcome State Fault Refusal := (srsAck num s).outcome

/-- SRS.NAK (R204). -/
def execSrsNak (num : U16) (s : State) : Host.Outcome State Fault Refusal := (srsNak num s).outcome

/-- SRS.TIMEOUT (R205). -/
def execSrsTimeout (s : State) : Host.Outcome State Fault Refusal := (srsTimeout s).outcome

/-- SRS.RSVD (R207): a reserved kind is ignored; the row does not consume another (notes/assumptions/8.md). -/
def execSrsRsvd (_kind : Byte) (_num : U16) (s : State) : Host.Outcome State Fault Refusal := .next s

/-- SRR.START (R216). -/
def execSrrStart (s : State) : Host.Outcome State Fault Refusal := .next (srrStart s)

/-- SRR.HS (R217): the row of the legal values; the row does not consume others (notes/assumptions/8.md). -/
def execSrrHs (n w : I32) (s : State) : Host.Outcome State Fault Refusal :=
  if s.srr.st = .awaitHs ∧ (legalN n && legalW w) = true then .next (srrHsLegal n w s) else .next s

/-- SRR.HS.MALFORMED (R227): the row of the illegal values. -/
def execSrrHsMalformed (n w : I32) (s : State) : Host.Outcome State Fault Refusal :=
  if s.srr.st = .awaitHs ∧ (legalN n && legalW w) = false then .next (srrHsBad s) else .next s

/-- SRR.DATA.OOR (R218): the row's case of `RX_DATA`; a frame that is not of this case is not consumed by the row
(notes/assumptions/8.md). -/
def execSrrDataOor (idx : U16) (_last : Bool) (frame : Bytes) (s : State) : Host.Outcome State Fault Refusal :=
  match srrCase idx frame s with
  | .oor => .next (srrOor s)
  | .first _ => .next s
  | .dup => .next s
  | .bad _ => .next s
  | .unused => .next s

/-- SRR.DATA.VALID_FIRST (R219). -/
def execSrrDataValidFirst (idx : U16) (last : Bool) (frame : Bytes) (s : State) : Host.Outcome State Fault Refusal :=
  match srrCase idx frame s with
  | .oor => .next s
  | .first c => .next (srrFirst idx last c s)
  | .dup => .next s
  | .bad _ => .next s
  | .unused => .next s

/-- SRR.DATA.VALID_DUP (R220). -/
def execSrrDataValidDup (idx : U16) (last : Bool) (frame : Bytes) (s : State) : Host.Outcome State Fault Refusal :=
  match srrCase idx frame s with
  | .oor => .next s
  | .first _ => .next s
  | .dup => .next (srrDup idx last s)
  | .bad _ => .next s
  | .unused => .next s

/-- SRR.DATA.INVALID (R221): `last` is not latched. -/
def execSrrDataInvalid (idx : U16) (_last : Bool) (frame : Bytes) (s : State) : Host.Outcome State Fault Refusal :=
  match srrCase idx frame s with
  | .oor => .next s
  | .first _ => .next s
  | .dup => .next s
  | .bad status => .next (srrBad idx status s)
  | .unused => .next s

end Sys2Proof.Machine
end

