-- ==== Sys2Proof/Machine/StopWait.lean ====
section
/-!
DEFINITION. The Stop-and-Wait engine (rules R170 to R190): sender `SWS`, receiver `SWR`. First the operations, each
guarded by the state condition of its rule, outside which the default arm leaves the state as it is (R258); then the
meanings.
-/

namespace Sys2Proof.Machine

/-! ## Sender -/

/-- `SWS.SEND`: the current chunk (R172). -/
def swsSend (s : State) : Res := sendPacket .sws s.sws.i s

/-- `SWS.START(N, chunks)` (R171): accepted only with `MODE = NONE` (R249); an illegal `N` is `MalformedHandshake` and
nothing is sent (R271); a legal one writes every register of `SWS` (R24, R292) and sends packet 0. -/
def swsStart (n : I32) (chunks : List Bytes) (s : State) : Res :=
  if s.mode = .none then
    if legalN n then
      swsSend ((s.setMode .swTx).setSws
        { st := .awaitingAck, n := n.toInt.toNat, i := 0, currSeq := 0, retry := 0, err := .none, chunk := chunks })
    else .ok (raiseError .sws .malformedHandshake (s.setMode .swTx))
  else .ok s

/-- The registers `SWS.ACK` writes before it looks whether the stream is finished (R173). -/
def swsAdvance (s : State) : State :=
  (seqInc s).setSws { (seqInc s).sws with i := s.sws.i + 1, retry := 0 }

/-- `SWS.ACK(s)` in `AwaitingAck`; the number is not examined (R173, R177). -/
def swsAck (s : State) : Res :=
  if s.sws.st = .awaitingAck then
    if (swsAdvance s).sws.i = (swsAdvance s).sws.n then
      .ok ((swsAdvance s).setSws { (swsAdvance s).sws with st := .done })
    else swsSend (swsAdvance s)
  else .ok s

/-- The retransmission of `SWS.NAK` and `SWS.TIMEOUT` in `AwaitingAck`: `RETRY_TAKE(SWS); SWS.SEND` (R174, R175). -/
def swsResend (s : State) : Res :=
  if s.sws.st = .awaitingAck then retryThen .sws s swsSend else .ok s

/-! ## Receiver -/

/-- `SWR.START` (R181): accepted only with `MODE = NONE` (R249). -/
def swrStart (s : State) : State :=
  if s.mode = .none then
    (s.setMode .swRx).setSwr { st := .receiving, lastIdx := none, rxStat := .ok, err := .none, rb := [] }
  else s

/-- The completeness check and hand-off for a stream of `n` chunks (R188). -/
def handoff (n : Nat) (s : State) : State :=
  if entriesPresent s.swr.rb n then
    (concatOr s.swr.rb n s).2.emit (.sink (concatOr s.swr.rb n s).1)
  else s.setSwr { s.swr with err := .incompleteReassembly }

/-- `SWR.HANDOFF`: `n <- SWR.LASTIDX + 1` (R188); with `LASTIDX = ABSENT`, which only a hand-off run on its own can
meet, the index is a free value (notes/assumptions/6.md). -/
def swrHandoff (s : State) : State :=
  match s.swr.lastIdx with
  | some l => handoff (l.toNat + 1) s
  | none => handoff ((Config.freeIndex s.free).toNat + 1) s.bumpFree

/-- Termination on `last`: `SWR.LASTIDX <- idx; SWR.ST <- Done`, then the hand-off (R187). -/
def swrLast (idx : U16) (s : State) : State :=
  swrHandoff (s.setSwr { s.swr with lastIdx := some idx, st := .done })

/-- `RXSTAT <- OK`, the `ACK`, and the termination of R187: what a valid frame does after the storing (R182, R183). -/
def swrAccept (idx : U16) (last : Bool) (s : State) : State :=
  let t := (s.setSwr { s.swr with rxStat := .ok }).emit (.ctrl Config.ackKind (swrAckNum idx))
  if last then swrLast idx t else t

/-- `SWR.DATA`, valid, first delivery: the chunk is stored, then as for every valid frame (R182). -/
def swrFirst (idx : U16) (last : Bool) (c : Bytes) (s : State) : State :=
  swrAccept idx last (s.setSwr { s.swr with rb := storeIfAbsent s.swr.rb idx.toNat c })

/-- `SWR.DATA`, valid, duplicate: nothing is stored (R183). -/
def swrDup (idx : U16) (last : Bool) (s : State) : State := swrAccept idx last s

/-- `SWR.DATA`, invalid: the status and a `NAK` with the full index (R184). -/
def swrBad (idx : U16) (status : RxStat) (s : State) : State :=
  (s.setSwr { s.swr with rxStat := status }).emit (.ctrl Config.nakKind idx)

/-- The three cases of `SWR.DATA` (R182 to R184). -/
inductive SwrCase where
  | first (c : Bytes)
  | dup
  | bad (status : RxStat)
  /-- No rule of `SWR` consumes the frame in this state (R258). -/
  | unused
  deriving DecidableEq, Repr

/-- Which case of `SWR.DATA` a frame with index `idx` is (R182 to R184). -/
def swrCase (idx : U16) (frame : Bytes) (s : State) : SwrCase :=
  if s.swr.st = .receiving then
    let d := decodeFrame s.par.maxChunk frame
    if d.valid then
      match readEntry s.swr.rb idx.toNat with
      | none => .first d.chunk
      | some _ => .dup
    else .bad d.status
  else .unused

/-- The event `RX_DATA` at `SWR` (R180). -/
def swrData (idx : U16) (last : Bool) (frame : Bytes) (s : State) : State :=
  match swrCase idx frame s with
  | .first c => swrFirst idx last c s
  | .dup => swrDup idx last s
  | .bad status => swrBad idx status s
  | .unused => s

/-! ## Meanings -/

/-- SWS.START (R171). -/
def execSwsStart (n : I32) (chunks : List Bytes) (s : State) : Host.Outcome State Fault Refusal :=
  (swsStart n chunks s).outcome

/-- SWS.SEND (R172). -/
def execSwsSend (s : State) : Host.Outcome State Fault Refusal := (swsSend s).outcome

/-- SWS.ACK (R173): the number is not examined (R177). -/
def execSwsAck (_num : U16) (s : State) : Host.Outcome State Fault Refusal := (swsAck s).outcome

/-- SWS.NAK (R174): the number is not examined (R177). -/
def execSwsNak (_num : U16) (s : State) : Host.Outcome State Fault Refusal := (swsResend s).outcome

/-- SWS.TIMEOUT (R175). -/
def execSwsTimeout (s : State) : Host.Outcome State Fault Refusal := (swsResend s).outcome

/-- SWS.RSVD (R176): a reserved kind is ignored; the row does not consume another (notes/assumptions/8.md). -/
def execSwsRsvd (_kind : Byte) (_num : U16) (s : State) : Host.Outcome State Fault Refusal := .next s

/-- SWR.START (R181). -/
def execSwrStart (s : State) : Host.Outcome State Fault Refusal := .next (swrStart s)

/-- SWR.DATA.VALID_FIRST (R182): the row's case of `RX_DATA`; a frame that is not of this case is not consumed by the
row (notes/assumptions/8.md). -/
def execSwrDataValidFirst (idx : U16) (last : Bool) (frame : Bytes) (s : State) : Host.Outcome State Fault Refusal :=
  match swrCase idx frame s with
  | .first c => .next (swrFirst idx last c s)
  | .dup => .next s
  | .bad _ => .next s
  | .unused => .next s

/-- SWR.DATA.VALID_DUP (R183). -/
def execSwrDataValidDup (idx : U16) (last : Bool) (frame : Bytes) (s : State) : Host.Outcome State Fault Refusal :=
  match swrCase idx frame s with
  | .first _ => .next s
  | .dup => .next (swrDup idx last s)
  | .bad _ => .next s
  | .unused => .next s

/-- SWR.DATA.INVALID (R184): `last` is not acted on. -/
def execSwrDataInvalid (idx : U16) (_last : Bool) (frame : Bytes) (s : State) : Host.Outcome State Fault Refusal :=
  match swrCase idx frame s with
  | .first _ => .next s
  | .dup => .next s
  | .bad status => .next (swrBad idx status s)
  | .unused => .next s

/-- SWR.LAST (R187): the sub-step of a valid `RX_DATA` with `last = true`, in state `Receiving`. -/
def execSwrLast (idx : U16) (s : State) : Host.Outcome State Fault Refusal :=
  if s.swr.st = .receiving then .next (swrLast idx s) else .next s

/-- SWR.HANDOFF (R188). -/
def execSwrHandoff (s : State) : Host.Outcome State Fault Refusal := .next (swrHandoff s)

end Sys2Proof.Machine
end

