-- ==== Sys2Proof/Machine/HostChannel.lean ====
section
/-!
DEFINITION. The block's two boundaries (rules R240 to R258, R264 to R270): `consume`, the engine step of R11 on one input
event; the meanings of the host and environment events, of a message that arrives on the channel in its wire format, and
of the output messages.
-/

namespace Sys2Proof.Machine

/-- A `START_*` event: the common part and the engine's own start (R249). -/
def startOp (r : StartReq) (s : State) : Res :=
  match r with
  | .swTx n chunks => swsStart n chunks s
  | .swRx => .ok (swrStart s)
  | .srTx n w chunks => .ok (srsStart n w chunks s)
  | .srRx => .ok (srrStart s)

/-- `RX_CTRL(kind, seq)` at the active engine (R173, R174, R176, R202 to R204, R207); ignored at a receiver and with
`MODE = NONE` (R258). -/
def rxCtrl (kind : Byte) (num : U16) (s : State) : Res :=
  match s.mode with
  | .swTx =>
    if kind = Config.ackKind then swsAck s else if kind = Config.nakKind then swsResend s else .ok s
  | .srTx =>
    if kind = Config.ackKind then (if s.srs.st = .awaitHsAck then srsHsack s else srsAck num s)
    else if kind = Config.nakKind then srsNak num s
    else .ok s
  | .none | .swRx | .srRx => .ok s

/-- `RX_DATA(idx, last, frame)` at the active engine; ignored at a sender and with `MODE = NONE` (R241, R258). -/
def rxData (idx : U16) (last : Bool) (frame : Bytes) (s : State) : State :=
  match s.mode with
  | .swRx => swrData idx last frame s
  | .srRx => srrData idx last frame s
  | .none | .swTx | .srTx => s

/-- `RX_HS(n, w)` at the active engine; only `SRR` consumes it (R241, R258). -/
def rxHs (n w : I32) (s : State) : State :=
  match s.mode with
  | .srRx => srrHs n w s
  | .none | .swTx | .swRx | .srTx => s

/-- `TIMEOUT` at the active engine; ignored at a receiver and with `MODE = NONE` (R258, R268). -/
def timeoutOp (s : State) : Res :=
  match s.mode with
  | .swTx => swsResend s
  | .srTx => srsTimeout s
  | .none | .swRx | .srRx => .ok s

/-- The step of R11 on one input event: the active engine's rule for it, or the default arm (R23, R241, R258). -/
def consume (e : Event) (s : State) : Res :=
  match e with
  | .reset => .ok (resetOp s)
  | .start r => startOp r s
  | .stop => .ok (stopOp s)
  | .rxHs n w => .ok (rxHs n w s)
  | .rxData idx last frame => .ok (rxData idx last frame s)
  | .rxCtrl kind num => rxCtrl kind num s
  | .timeout => timeoutOp s
  | .transportFail => .ok (transportFailOp s)

/-- The format of a channel message that arrives now, by direction and phase (R245): a sender role reads control replies,
`SRS` in `AwaitHsAck` taking one of kind 0x06 for the handshake reply; a Selective-Repeat receiver reads first the
handshake, then envelopes; a Stop-and-Wait receiver reads envelopes. With `MODE = NONE` the instance has no role and so no
phase. -/
def phaseFormat (s : State) : Option Format :=
  match s.mode with
  | .none => none
  | .swTx => some .ctrl
  | .srTx => if s.srs.st = .awaitHsAck then some .hsr else some .ctrl
  | .swRx => some .env
  | .srRx => if s.srr.st = .awaitHs then some .hs else some .env

/-- The item as the transport reads it in the state's phase: the three bytes of a control reply that arrive while the
handshake reply is awaited are read in that phase, where kind 0x06 is the handshake reply and any other kind the same
control reply as ever (R84, R93, R245). -/
def inPhase (s : State) (it : Item) : Item :=
  match it with
  | .wire fmt bytes => .wire (if fmt = .ctrl ∧ phaseFormat s = some .hsr then .hsr else fmt) bytes
  | .op i => .op i

/-! ## Meanings of the wire-format rows: a message that arrives on the channel -/

/-- FRAME (R81): the bytes of a frame, given to the decoder; without an envelope they are no event of an engine, so the
effect is the three results of `DECODE` (R125; notes/assumptions/9.md). -/
def execFrame (body : Bytes) (etx : Byte) (csum : U16) (s : State) : Host.Outcome State Fault Refusal :=
  .next (s.setRet (decodedRet (decodeFrame s.par.maxChunk (frameBytes body etx csum))))

/-- ENV (R82): the event `RX_DATA` it yields is consumed (R89, R240, R243). -/
def execEnv (idx : U16) (last : Byte) (frame : Bytes) (s : State) : Host.Outcome State Fault Refusal :=
  (consume (.rxData idx (lastOfByte last) frame) s).outcome

/-- HS (R83): the event `RX_HS` it yields is consumed (R244). -/
def execHs (n w : I32) (s : State) : Host.Outcome State Fault Refusal := (consume (.rxHs n w) s).outcome

/-- HSACK (R84): the event `RX_CTRL(0x06, p)` it yields is consumed (R93, R242). -/
def execHsack (p : U16) (s : State) : Host.Outcome State Fault Refusal :=
  (consume (.rxCtrl Config.ackKind p) s).outcome

/-- ACK (R85): the event `RX_CTRL(0x06, s)` it yields is consumed (R242). -/
def execAck (num : U16) (s : State) : Host.Outcome State Fault Refusal :=
  (consume (.rxCtrl Config.ackKind num) s).outcome

/-- NAK (R85): the event `RX_CTRL(0x21, s)` it yields is consumed (R242). -/
def execNak (num : U16) (s : State) : Host.Outcome State Fault Refusal :=
  (consume (.rxCtrl Config.nakKind num) s).outcome

/-- CTRL.RSVD (R91): the event `RX_CTRL(kind, s)` it yields is consumed; every engine ignores a reserved kind. -/
def execCtrlRsvd (kind : Byte) (num : U16) (s : State) : Host.Outcome State Fault Refusal :=
  (consume (.rxCtrl kind num) s).outcome

/-! ## Meanings of the host and environment events -/

/-- RESET (R248, R291). -/
def execReset (s : State) : Host.Outcome State Fault Refusal := (consume .reset s).outcome

/-- START.COMMON (R249): the start event it is given, accepted iff `MODE = NONE`. -/
def execStartCommon (r : StartReq) (s : State) : Host.Outcome State Fault Refusal := (consume (.start r) s).outcome

/-- STOP (R269). -/
def execStop (s : State) : Host.Outcome State Fault Refusal := (consume .stop s).outcome

/-- TRANSPORT_FAIL (R270). -/
def execTransportFail (s : State) : Host.Outcome State Fault Refusal := (consume .transportFail s).outcome

/-- TIMEOUT (R268). -/
def execTimeout (s : State) : Host.Outcome State Fault Refusal := (consume .timeout s).outcome

/-- IGNORE (R258): state unchanged, nothing emitted. -/
def execIgnore (s : State) : Host.Outcome State Fault Refusal := .next s

/-! ## Meanings of the output messages -/

/-- TX_HS (R12, R244): the message is emitted. -/
def execTxHs (n w : I32) (s : State) : Host.Outcome State Fault Refusal := .next (s.emit (.hs n w))

/-- TX_DATA (R12, R243): the message is emitted. -/
def execTxData (idx : U16) (last : Bool) (frame : Bytes) (s : State) : Host.Outcome State Fault Refusal :=
  .next (s.emit (.data idx last frame))

/-- TX_CTRL (R12, R242): the message is emitted. -/
def execTxCtrl (kind : Byte) (num : U16) (s : State) : Host.Outcome State Fault Refusal :=
  .next (s.emit (.ctrl kind num))

/-- SINK (R247): the message is emitted; the sink returns nothing. -/
def execSink (bytes : Bytes) (s : State) : Host.Outcome State Fault Refusal := .next (s.emit (.sink bytes))

end Sys2Proof.Machine
end

