-- ==== Sys2Proof/Machine/Dispatch.lean ====
section
/-!
DEFINITION. The meaning of every operation: one arm per row of spec/opcode_table.json, in the table's order.
-/

namespace Sys2Proof.Machine

def exec (i : Instr) (s : State) : Host.Outcome State Fault Refusal :=
  match i with
  | .frame body etx csum => Sys2Proof.Machine.execFrame body etx csum s
  | .env idx last frame => Sys2Proof.Machine.execEnv idx last frame s
  | .hs n w => Sys2Proof.Machine.execHs n w s
  | .hsack p => Sys2Proof.Machine.execHsack p s
  | .ack num => Sys2Proof.Machine.execAck num s
  | .nak num => Sys2Proof.Machine.execNak num s
  | .ctrlRsvd kind num => Sys2Proof.Machine.execCtrlRsvd kind num s
  | .stuff x => Sys2Proof.Machine.execStuff x s
  | .unstuff y => Sys2Proof.Machine.execUnstuff y s
  | .csum16 y => Sys2Proof.Machine.execCsum16 y s
  | .encode c => Sys2Proof.Machine.execEncode c s
  | .decode f => Sys2Proof.Machine.execDecode f s
  | .seqOf k => Sys2Proof.Machine.execSeqOf k s
  | .seqInc => Sys2Proof.Machine.execSeqInc s
  | .islastOf k n => Sys2Proof.Machine.execIslastOf k n s
  | .winInit n w => Sys2Proof.Machine.execWinInit n w s
  | .winHi => Sys2Proof.Machine.execWinHi s
  | .winFill => Sys2Proof.Machine.execWinFill s
  | .winAck num => Sys2Proof.Machine.execWinAck num s
  | .winAdvance => Sys2Proof.Machine.execWinAdvance s
  | .winDone => Sys2Proof.Machine.execWinDone s
  | .acked k => Sys2Proof.Machine.execAcked k s
  | .rxMark idx c => Sys2Proof.Machine.execRxMark idx c s
  | .rxComplete => Sys2Proof.Machine.execRxComplete s
  | .nakOnce idx => Sys2Proof.Machine.execNakOnce idx s
  | .idxValid idx => Sys2Proof.Machine.execIdxValid idx s
  | .retryTake e => Sys2Proof.Machine.execRetryTake e s
  | .memRead a k => Sys2Proof.Machine.execMemRead a k s
  | .memWrite w => Sys2Proof.Machine.execMemWrite w s
  | .concat r n => Sys2Proof.Machine.execConcat r n s
  | .serCtrl kind num => Sys2Proof.Machine.execSerCtrl kind num s
  | .parseCtrl m => Sys2Proof.Machine.execParseCtrl m s
  | .serEnv idx last frame => Sys2Proof.Machine.execSerEnv idx last frame s
  | .parseEnv m => Sys2Proof.Machine.execParseEnv m s
  | .serHs n w => Sys2Proof.Machine.execSerHs n w s
  | .parseHs m => Sys2Proof.Machine.execParseHs m s
  | .send e k => Sys2Proof.Machine.execSend e k s
  | .fill => Sys2Proof.Machine.execFill s
  | .resendAll => Sys2Proof.Machine.execResendAll s
  | .swsStart n chunks => Sys2Proof.Machine.execSwsStart n chunks s
  | .swsSend => Sys2Proof.Machine.execSwsSend s
  | .swsAck num => Sys2Proof.Machine.execSwsAck num s
  | .swsNak num => Sys2Proof.Machine.execSwsNak num s
  | .swsTimeout => Sys2Proof.Machine.execSwsTimeout s
  | .swsRsvd kind num => Sys2Proof.Machine.execSwsRsvd kind num s
  | .swrStart => Sys2Proof.Machine.execSwrStart s
  | .swrDataValidFirst idx last frame => Sys2Proof.Machine.execSwrDataValidFirst idx last frame s
  | .swrDataValidDup idx last frame => Sys2Proof.Machine.execSwrDataValidDup idx last frame s
  | .swrDataInvalid idx last frame => Sys2Proof.Machine.execSwrDataInvalid idx last frame s
  | .swrLast idx => Sys2Proof.Machine.execSwrLast idx s
  | .swrHandoff => Sys2Proof.Machine.execSwrHandoff s
  | .srsStart n w chunks => Sys2Proof.Machine.execSrsStart n w chunks s
  | .srsHsack p => Sys2Proof.Machine.execSrsHsack p s
  | .srsAck num => Sys2Proof.Machine.execSrsAck num s
  | .srsNak num => Sys2Proof.Machine.execSrsNak num s
  | .srsTimeout => Sys2Proof.Machine.execSrsTimeout s
  | .srsRsvd kind num => Sys2Proof.Machine.execSrsRsvd kind num s
  | .srrStart => Sys2Proof.Machine.execSrrStart s
  | .srrHs n w => Sys2Proof.Machine.execSrrHs n w s
  | .srrHsMalformed n w => Sys2Proof.Machine.execSrrHsMalformed n w s
  | .srrDataOor idx last frame => Sys2Proof.Machine.execSrrDataOor idx last frame s
  | .srrDataValidFirst idx last frame => Sys2Proof.Machine.execSrrDataValidFirst idx last frame s
  | .srrDataValidDup idx last frame => Sys2Proof.Machine.execSrrDataValidDup idx last frame s
  | .srrDataInvalid idx last frame => Sys2Proof.Machine.execSrrDataInvalid idx last frame s
  | .reset => Sys2Proof.Machine.execReset s
  | .startCommon r => Sys2Proof.Machine.execStartCommon r s
  | .stop => Sys2Proof.Machine.execStop s
  | .transportFail => Sys2Proof.Machine.execTransportFail s
  | .timeout => Sys2Proof.Machine.execTimeout s
  | .ignore => Sys2Proof.Machine.execIgnore s
  | .txHs n w => Sys2Proof.Machine.execTxHs n w s
  | .txData idx last frame => Sys2Proof.Machine.execTxData idx last frame s
  | .txCtrl kind num => Sys2Proof.Machine.execTxCtrl kind num s
  | .sink bytes => Sys2Proof.Machine.execSink bytes s

end Sys2Proof.Machine
end

