-- ==== Sys2Proof/Machine/Step.lean ====
section
/-!
DEFINITION. One step of the instance (rule R11): the next item the environment presents is consumed, decoded and run.
-/

namespace Sys2Proof.Machine

/-- One step. With nothing presented the engine waits (R278: "an engine that waits simply has no step until an event
arrives"): the state stays as it is. An item that is no message and no operation of the spec is refused by name (R245,
R246; `Refusal.undecodable`, notes/assumptions/13.md). -/
def step (s : State) : Host.Outcome State Fault Refusal :=
  match s.input with
  | [] => .next s
  | it :: rest =>
    match decode s.par.maxChunk it with
    | .ok i => exec i (s.setInput rest)
    | .error why => .refused (.undecodable why)

/-- `s` with one word of the opcode table presented as the next item. -/
def State.withFetchWord (s : State) (nbits w : Nat) : State :=
  match tableItem nbits w with
  | none => s
  | some it => s.setInput (inPhase s it :: s.input)

end Sys2Proof.Machine
end

