-- ==== Sys2Proof/Machine/HostView.lean ====
section
/-!
DEFINITION. What the host may read (rules R29, R252): the registers by name and the arrays by element, a receiver's
reassembly buffer among them ("readable in place as well"), at any step boundary. The host writes none of them; a read has
no effect, so this is a function of the state and no operation.
-/

namespace Sys2Proof.Machine

/-- What the host can name: the registers of R21 and R24 to R27, and one element of an array of R30 and R31 (R29, R252). -/
inductive HostReg where
  | mode
  | swsSt | swsN | swsI | swsCurrSeq | swsRetry | swsErr
  | swrSt | swrLastIdx | swrRxStat | swrErr
  | srsSt | srsN | srsW | srsWinBase | srsNextSeq | srsRetry | srsErr
  | srrSt | srrN | srrW | srrRcount | srrLastSeen | srrOor | srrRxStat | srrErr
  | element (a : ArrayName) (i : Nat)
  deriving DecidableEq, Repr

/-- The value of a host-visible register or element. -/
inductive HostValue where
  | mode (m : Mode)
  | swsSt (x : SwsSt)
  | swrSt (x : SwrSt)
  | srsSt (x : SrsSt)
  | srrSt (x : SrrSt)
  | count (k : Nat)
  | index (x : Option U16)
  | bit (b : Bool)
  /-- A numeric code of R261 or R262. -/
  | code (k : Nat)
  /-- An element as `MemRead` reads it: a bit, a chunk, or an optional entry (`readElement`; R10). -/
  | element (r : Ret)
  /-- The array has no element of that index (R30). -/
  | noElement
  deriving DecidableEq, Repr

/-- Reading a register or an element (R29, R252). -/
def hostRead (r : HostReg) (s : State) : HostValue :=
  match r with
  | .mode => .mode s.mode
  | .swsSt => .swsSt s.sws.st
  | .swsN => .count s.sws.n
  | .swsI => .count s.sws.i
  | .swsCurrSeq => .count s.sws.currSeq.toNat
  | .swsRetry => .count s.sws.retry
  | .swsErr => .code s.sws.err.code
  | .swrSt => .swrSt s.swr.st
  | .swrLastIdx => .index s.swr.lastIdx
  | .swrRxStat => .code s.swr.rxStat.code
  | .swrErr => .code s.swr.err.code
  | .srsSt => .srsSt s.srs.st
  | .srsN => .count s.srs.n
  | .srsW => .count s.srs.w
  | .srsWinBase => .count s.srs.winBase
  | .srsNextSeq => .count s.srs.nextSeq
  | .srsRetry => .count s.srs.retry
  | .srsErr => .code s.srs.err.code
  | .srrSt => .srrSt s.srr.st
  | .srrN => .count s.srr.n
  | .srrW => .count s.srr.w
  | .srrRcount => .count s.srr.rcount
  | .srrLastSeen => .bit s.srr.lastSeen
  | .srrOor => .bit s.srr.oor
  | .srrRxStat => .code s.srr.rxStat.code
  | .srrErr => .code s.srr.err.code
  | .element a i => if i < arrayLen a s then .element (readElement a i s) else .noElement

end Sys2Proof.Machine
end

