-- ==== Sys2Proof/Machine/Session.lean ====
section
/-!
DEFINITION. A session (rule R16): a sender instance, a receiver instance and the channel between them, as a system the
environment drives. One `move` is one environment choice (R17, R250, R265); the channel keeps the order within a
direction and may lose a `TX_DATA` or alter its frame bytes, and nothing else. Each instance still takes its steps by
`step` alone. Nothing in the machine (`Sys2Proof.core`) depends on this file: it is what statements about two instances
are made of.
-/

namespace Sys2Proof.Machine

/-- Two instances and what is between them. `tx` and `input` of an instance are empty between moves: what a step emits
goes into the channel or to the sink at once. -/
structure Session where
  sender : State
  receiver : State
  /-- Messages under way from the sender to the receiver, the oldest first (R32 item 1, R68). -/
  down : List Message
  /-- Messages under way from the receiver to the sender, the oldest first. -/
  up : List Message
  /-- What the storage sink has been handed (R247). -/
  sunk : List Bytes
  deriving DecidableEq, Repr

/-- The environment's choices (R17, R250). -/
inductive Move where
  /-- A host event, a `TIMEOUT` or a `TRANSPORT_FAIL` is given to the sender. -/
  | toSender (e : Event)
  /-- The same for the receiver. -/
  | toReceiver (e : Event)
  /-- The oldest message of a direction is delivered as it is. -/
  | deliverDown
  | deliverUp
  /-- The oldest message from the sender is lost, if it is a `TX_DATA`. -/
  | drop
  /-- The oldest message from the sender, if it is a `TX_DATA`, gets other frame bytes. -/
  | corrupt (frame : Bytes)
  deriving DecidableEq, Repr

/-- The item a delivered message is at the other end, in the wire format its direction and kind have (R242 to R245). A
frame too long for `LEN` arrives as the typed message (R240, R250: every message may be delivered intact;
notes/assumptions/25.md). -/
def deliveredItem (m : Message) : Option Item :=
  match m with
  | .hs n w => some (.wire .hs (serHs n w))
  | .data idx last frame =>
    some (if lenFits frame then .wire .env (serEnv idx last frame) else .op (.env idx (lastByte last) frame))
  | .ctrl kind num => some (.wire .ctrl (serCtrl kind num))
  | .sink _ => none

/-- The operation an event of the host, the timer or the channel's failure is; a message's event comes from a delivery
alone, since the channel invents nothing (R250). -/
def environmentItem (e : Event) : Option Item :=
  match e with
  | .reset => some (.op .reset)
  | .start r => some (.op (.startCommon r))
  | .stop => some (.op .stop)
  | .timeout => some (.op .timeout)
  | .transportFail => some (.op .transportFail)
  | .rxHs _ _ => none
  | .rxData _ _ _ => none
  | .rxCtrl _ _ => none

/-- The byte sequence a `SINK` message hands over. -/
def sinkBytes : Message → Option Bytes
  | .sink b => some b
  | .hs .. => none
  | .data .. => none
  | .ctrl .. => none

/-- A message that leaves on the channel. -/
def onChannel : Message → Bool
  | .sink _ => false
  | .hs .. => true
  | .data .. => true
  | .ctrl .. => true

/-- One step of an instance on one item: the state with its output taken away, and the output. -/
def stepOn (s : State) (it : Item) : Option (State × List Message) :=
  match step { s with input := [inPhase s it], tx := [] } with
  | .next t => some ({ t with tx := [] }, t.tx)
  | .fault _ => none
  | .refused _ => none

/-- The sender consumes an item. -/
def senderMove (x : Session) (it : Item) : Option Session :=
  match stepOn x.sender it with
  | some (t, out) =>
    some { x with sender := t, down := x.down ++ out.filter onChannel, sunk := x.sunk ++ out.filterMap sinkBytes }
  | none => none

/-- The receiver consumes an item. -/
def receiverMove (x : Session) (it : Item) : Option Session :=
  match stepOn x.receiver it with
  | some (t, out) =>
    some { x with receiver := t, up := x.up ++ out.filter onChannel, sunk := x.sunk ++ out.filterMap sinkBytes }
  | none => none

/-- One choice of the environment; `none` where the choice is not open to it in this session. -/
def move (m : Move) (x : Session) : Option Session :=
  match m with
  | .toSender e =>
    match environmentItem e with
    | some it => senderMove x it
    | none => none
  | .toReceiver e =>
    match environmentItem e with
    | some it => receiverMove x it
    | none => none
  | .deliverDown =>
    match x.down with
    | [] => none
    | d :: rest =>
      match deliveredItem d with
      | some it => receiverMove { x with down := rest } it
      | none => none
  | .deliverUp =>
    match x.up with
    | [] => none
    | d :: rest =>
      match deliveredItem d with
      | some it => senderMove { x with up := rest } it
      | none => none
  | .drop =>
    match x.down with
    | .data _ _ _ :: rest => some { x with down := rest }
    | [] => none
    | .hs _ _ :: _ => none
    | .ctrl _ _ :: _ => none
    | .sink _ :: _ => none
  | .corrupt frame =>
    match x.down with
    | .data idx last _ :: rest => some { x with down := .data idx last frame :: rest }
    | [] => none
    | .hs _ _ :: _ => none
    | .ctrl _ _ :: _ => none
    | .sink _ :: _ => none

/-- A list of choices, in order. -/
def moves : List Move → Session → Option Session
  | [], x => some x
  | m :: r, x =>
    match move m x with
    | some y => moves r y
    | none => none

/-- Two instances after reset, with the parameters given, and an empty channel (R293). -/
def Session.start (p q : Params) : Session :=
  { sender := { State.reset with par := p }, receiver := { State.reset with par := q }, down := [], up := [], sunk := [] }

end Sys2Proof.Machine
end

