-- ==== Sys2Proof/Machine/Streaming.lean ====
section
/-!
DEFINITION. The byte-serial codec of rule R131 (informative in the spec; the list functions of Codec.lean are
normative): the hidden registers of rule R32 item 2, cleared at the start of every operation and seen by no rule
between operations. They are therefore not fields of `State`.
-/

namespace Sys2Proof.Machine

/-- The registers of a streaming codec: `ACC`, `PHASE` (false: the next body byte is a high byte), `ESCP` (decoder: the
previous body byte was an escape), and the bytes output so far (R131). -/
structure Stream where
  acc : Nat
  phase : Bool
  escp : Bool
  out : Bytes
  deriving DecidableEq, Repr

/-- The registers at the start of an operation (R131, R291). -/
def streamStart : Stream := { acc := 0, phase := false, escp := false, out := [] }

/-- `fold(t) = if t > 0xFFFF then (t mod 0x10000) + 1 else t` (R131). -/
def streamCarry (t : Nat) : Nat := if 0xFFFF < t then t % 0x10000 + 1 else t

/-- "add `v`": the byte enters the accumulator as a high or a low byte, and the phase toggles (R131). -/
def streamAdd (r : Stream) (v : Byte) : Stream :=
  { r with acc := streamCarry (r.acc + (if r.phase then v.toNat else v.toNat * 256)), phase := !r.phase }

/-- A byte leaves the codec. -/
def streamOut (r : Stream) (v : Byte) : Stream := { r with out := r.out ++ [v] }

/-- The encoder on one chunk byte: a reserved byte is preceded by an escape, which is added and output first (R131). -/
def streamEncodeByte (r : Stream) (b : Byte) : Stream :=
  let r' := if reserved b then streamAdd (streamOut r Config.esc) Config.esc else r
  streamAdd (streamOut r' b) b

/-- The decoder on one body byte (R131). -/
def streamDecodeByte (r : Stream) (b : Byte) : Stream :=
  let r' := streamAdd r b
  if r'.escp then { streamOut r' b with escp := false }
  else if b = Config.esc then { r' with escp := true }
  else streamOut r' b

/-- The encoder over a chunk. -/
def streamEncode (c : Bytes) : Stream := c.foldl streamEncodeByte streamStart

/-- The decoder over a stuffed body; a set `ESCP` at the end is dropped (R122, R131). -/
def streamDecode (y : Bytes) : Stream := y.foldl streamDecodeByte streamStart

/-- The checksum the registers hold: the complement of the accumulator (R123, R131). -/
def streamChecksum (r : Stream) : U16 := BitVec.ofNat 16 (0xFFFF - r.acc)

end Sys2Proof.Machine
end

