-- ==== Sys2Proof/Safety.lean ====
section
/-!
DEFINITION. What a good state is (rule R36 and the invariants it collects: R20, R21, R158, R160, R178), which operations
are steps of the block in the sense of R11, and when a session has ended (R18, R22).
-/

namespace Sys2Proof.Machine

/-- The operation is a step of the block on an event: an input event or a channel message (R11, R97). The function rows
are sub-operations of such steps, and the message rows are outputs: run on their own, they keep no protocol invariant. -/
def isEventRow (i : Instr) : Bool :=
  match i.rowClass with
  | .wire _ => true
  | .event => true
  | .function => false
  | .message => false

/-- A register is within a budget that may be unbounded (R24, R26). -/
abbrev withinLimit (limit : Option Nat) (k : Nat) : Prop := (limit.all fun m => decide (k ≤ m)) = true

/-- R7: `MAX_CHUNK` is 1 or more, or unbounded. -/
abbrev ParInv (p : Params) : Prop := p.maxChunk ≠ some 0

/-- R20, R21: an engine is `Idle` iff `MODE` does not name it, and is then at its reset values. -/
abbrev RoleInv (s : State) : Prop :=
  (s.mode = .swTx → s.sws.st ≠ .idle) ∧ (s.mode ≠ .swTx → s.sws = Sws.reset) ∧
  (s.mode = .swRx → s.swr.st ≠ .idle) ∧ (s.mode ≠ .swRx → s.swr = Swr.reset) ∧
  (s.mode = .srTx → s.srs.st ≠ .idle) ∧ (s.mode ≠ .srTx → s.srs = Srs.reset) ∧
  (s.mode = .srRx → s.srr.st ≠ .idle) ∧ (s.mode ≠ .srRx → s.srr = Srr.reset)

/-- R24, R31, R178, R262: the Stop-and-Wait sender. -/
abbrev SwsInv (p : Params) (e : Sws) : Prop :=
  e.currSeq.toNat = e.i % 256 ∧ e.i ≤ e.n ∧ e.n ≤ 65536 ∧ e.chunk.length = e.n ∧
  (∀ c ∈ e.chunk, chunkFits p.maxChunk c = true) ∧ withinLimit p.retryLimit e.retry ∧
  (e.st = .awaitingAck → e.i < e.n) ∧ (e.st = .done → 0 < e.n) ∧ (0 < e.n → (e.i = e.n ↔ e.st = .done)) ∧
  (e.st = .failed ↔ e.err ≠ .none)

/-- R25, R31, R187, R188, R262: the Stop-and-Wait receiver. -/
abbrev SwrInv (e : Swr) : Prop :=
  EntryArray.wf e.rb ∧ (∀ x ∈ e.rb, x.1 < 65536) ∧ (e.st = .done ↔ e.lastIdx ≠ none) ∧
  (e.st = .failed → e.err = .transportFailure) ∧ (e.st = .idle → e.err = .none) ∧ (e.st = .receiving → e.err = .none) ∧
  (e.st = .stopped → e.err = .none) ∧ (e.st = .done → e.err = .none ∨ e.err = .incompleteReassembly) ∧
  (e.lastIdx.all fun l => decide (e.err = .none) == entriesPresent e.rb (l.toNat + 1)) = true

/-- R26, R30, R31, R158, R203, R205, R206, R262: the Selective-Repeat sender. -/
abbrev SrsInv (p : Params) (e : Srs) : Prop :=
  e.winBase ≤ e.nextSeq ∧ e.nextSeq ≤ e.n ∧ e.nextSeq ≤ e.winBase + e.w ∧ e.n ≤ 65536 ∧ e.w ≤ 2 ^ 31 - 1 ∧
  BitArray.wf e.outst ∧ (∀ k ∈ e.outst, e.winBase ≤ k ∧ k < e.nextSeq) ∧
  (e.winBase = e.nextSeq ∨ e.winBase ∈ e.outst) ∧ e.chunk.length = e.n ∧
  (∀ c ∈ e.chunk, chunkFits p.maxChunk c = true) ∧ withinLimit p.retryLimit e.retry ∧
  (e.st = .awaitHsAck → 0 < e.n ∧ 0 < e.w ∧ e.nextSeq = 0) ∧
  (e.st = .awaitReply → 0 < e.w ∧ e.nextSeq = min e.n (e.winBase + e.w) ∧ e.winBase < e.n) ∧
  (e.st = .done → e.winBase = e.n) ∧ (e.st = .failed ↔ e.err ≠ .none)

/-- R27, R30, R31, R36, R216, R222, R262: the Selective-Repeat receiver. -/
abbrev SrrInv (e : Srr) : Prop :=
  e.n ≤ 65536 ∧ e.w ≤ 2 ^ 31 - 1 ∧ BitArray.wf e.flags ∧ BitArray.wf e.nakSent ∧ EntryArray.wf e.rb ∧
  e.rcount = e.flags.length ∧ e.rb.map Prod.fst = e.flags ∧ (∀ k ∈ e.flags, k < e.n) ∧ (∀ k ∈ e.nakSent, k < e.n) ∧
  (e.st = .awaitHs → e = { Srr.reset with st := .awaitHs }) ∧
  (e.st = .receiving → e.rcount < e.n) ∧ (e.st = .done → e.rcount = e.n) ∧ (e.st = .failed ↔ e.err ≠ .none)

/-- The invariants of R36, with the ranges of R7 and R24 to R31. Every step on an event keeps them. -/
abbrev Inv (s : State) : Prop :=
  ParInv s.par ∧ RoleInv s ∧ SwsInv s.par s.sws ∧ SwrInv s.swr ∧ SrsInv s.par s.srs ∧ SrrInv s.srr

/-- The session of the instance has ended: its engine is in a terminal state (R18, R22). -/
abbrev ended (s : State) : Prop :=
  (s.mode = .swTx ∧ (s.sws.st = .done ∨ s.sws.st = .failed ∨ s.sws.st = .stopped)) ∨
  (s.mode = .swRx ∧ (s.swr.st = .done ∨ s.swr.st = .failed ∨ s.swr.st = .stopped)) ∨
  (s.mode = .srTx ∧ (s.srs.st = .done ∨ s.srs.st = .failed ∨ s.srs.st = .stopped)) ∨
  (s.mode = .srRx ∧ (s.srr.st = .done ∨ s.srr.st = .failed ∨ s.srr.st = .stopped))

/-- The five elements of the record of R20 are those of another state: no architectural state differs. -/
abbrev sameRecord (s t : State) : Prop :=
  t.mode = s.mode ∧ t.sws = s.sws ∧ t.swr = s.swr ∧ t.srs = s.srs ∧ t.srr = s.srr

/-! ## The terms statements are made in -/

/-- The `TX_DATA` messages of the packets `ks` of a stream of `n` chunks, in the order of `ks`: the index in 16 bits,
`last` on index `n - 1`, the frame of the chunk (R87, R99, R165). -/
def sent (n : Nat) (chunk : List Bytes) (ks : List Nat) : List Message :=
  ks.map fun k => .data (BitVec.ofNat 16 k) (decide (k + 1 = n)) (encodeFrame (chunk.getD k []))

/-- `RB[0] ++ ... ++ RB[n-1]`, an `ABSENT` entry counting as no bytes (R73). -/
def joined (rb : EntryArray) (n : Nat) : Bytes :=
  ((List.range n).map fun j => (readEntry rb j).getD []).flatten

/-- Entries `0 .. n-1` of a buffer are all present (R73, R188). -/
abbrev full (rb : EntryArray) (n : Nat) : Prop := ∀ j < n, readEntry rb j ≠ none

/-- The retry budget of a sender is left: `RETRY < RETRY_LIMIT`, or the limit is unbounded (R164). -/
abbrev budgetLeft (s : State) (retry : Nat) : Prop := ∀ k ∈ s.par.retryLimit, retry < k

/-- The retry budget of a sender is spent: the limit is finite and `RETRY >= RETRY_LIMIT` (R164). -/
abbrev budgetSpent (s : State) (retry : Nat) : Prop := ∃ k ∈ s.par.retryLimit, k ≤ retry

/-- The total of a body's big-endian 16-bit words, a lone last byte being the high byte of its word (R62, R123). -/
def wordTotal : Bytes → Nat
  | [] => 0
  | [hi] => hi.toNat * 256
  | hi :: lo :: r => hi.toNat * 256 + lo.toNat + wordTotal r

/-- A state change of `SWS` that R23 allows on an event other than `RESET`. -/
def swsEdge (a b : SwsSt) : Bool :=
  decide (a = b) || (decide (a = .idle) && (decide (b = .awaitingAck) || decide (b = .failed))) ||
    (decide (a = .awaitingAck) && (decide (b = .done) || decide (b = .failed) || decide (b = .stopped)))

/-- A state change of `SWR` that R23 allows on an event other than `RESET`. -/
def swrEdge (a b : SwrSt) : Bool :=
  decide (a = b) || (decide (a = .idle) && decide (b = .receiving)) ||
    (decide (a = .receiving) && (decide (b = .done) || decide (b = .failed) || decide (b = .stopped)))

/-- A state change of `SRS` that R23 allows on an event other than `RESET`. -/
def srsEdge (a b : SrsSt) : Bool :=
  decide (a = b) || (decide (a = .idle) && (decide (b = .awaitHsAck) || decide (b = .failed))) ||
    (decide (a = .awaitHsAck) && (decide (b = .awaitReply) || decide (b = .failed) || decide (b = .stopped))) ||
    (decide (a = .awaitReply) && (decide (b = .done) || decide (b = .failed) || decide (b = .stopped)))

/-- A state change of `SRR` that R23 allows on an event other than `RESET`. -/
def srrEdge (a b : SrrSt) : Bool :=
  decide (a = b) || (decide (a = .idle) && decide (b = .awaitHs)) ||
    (decide (a = .awaitHs) && (decide (b = .receiving) || decide (b = .failed) || decide (b = .stopped))) ||
    (decide (a = .receiving) && (decide (b = .done) || decide (b = .failed) || decide (b = .stopped)))

/-- A packet of a sender's chunk array, framed afresh, under its own full index (R71, R87, R165). -/
def packetMessage (n : Nat) (chunk : List Bytes) (m : Message) : Prop :=
  match m with
  | .hs _ _ => False
  | .data idx last frame =>
    ∃ c, chunk[idx.toNat]? = some c ∧ last = decide (idx.toNat + 1 = n) ∧ frame = encodeFrame c
  | .ctrl _ _ => False
  | .sink _ => False

/-! ## A session -/

/-- A message under way from the sender is a packet of its chunk array, at most its frame altered so that the receiver's
codec sees it: what the codec calls valid is the chunk of that index (R129, R250). -/
def packetIntact (maxChunk : Option Nat) (n : Nat) (chunk : List Bytes) (m : Message) : Bool :=
  match m with
  | .hs _ _ => false
  | .data idx last frame =>
    match chunk[idx.toNat]? with
    | none => false
    | some c =>
      decide (last = decide (idx.toNat + 1 = n)) &&
        (!(decodeFrame maxChunk frame).valid || decide ((decodeFrame maxChunk frame).chunk = c))
  | .ctrl _ _ => false
  | .sink _ => false

/-- The handshake of the sender's own session (R201). -/
def handshakeIntact (n w : Nat) (m : Message) : Bool :=
  match m with
  | .hs a b => decide (a.toInt = n) && decide (b.toInt = w)
  | .data _ _ _ => false
  | .ctrl _ _ => false
  | .sink _ => false

/-- An `ACK` under way to the sender names an index the receiver has flagged (R219, R220). -/
def ackFlagged (flags : BitArray) (m : Message) : Bool :=
  match m with
  | .hs _ _ => true
  | .data _ _ _ => true
  | .ctrl kind num => decide (kind ≠ Config.ackKind) || readBit flags num.toNat
  | .sink _ => true

/-- Every stored entry is the sender's chunk of that index. -/
abbrev storedIntact (chunk : List Bytes) (rb : EntryArray) : Prop := ∀ e ∈ rb, chunk[e.1]? = some e.2

/-- A Stop-and-Wait session that has delivered nothing but the original (R190). -/
abbrev SwSessionInv (x : Session) : Prop :=
  Inv x.sender ∧ Inv x.receiver ∧ x.sender.mode = .swTx ∧ x.receiver.mode = .swRx ∧
  (∀ m ∈ x.down, packetIntact x.receiver.par.maxChunk x.sender.sws.n x.sender.sws.chunk m = true) ∧
  storedIntact x.sender.sws.chunk x.receiver.swr.rb ∧
  (∀ l ∈ x.receiver.swr.lastIdx, l.toNat + 1 = x.sender.sws.n) ∧
  x.sunk =
    (if x.receiver.swr.st = .done ∧ x.receiver.swr.err = .none then [x.sender.sws.chunk.flatten] else [])

/-- What is under way while the sender awaits the handshake reply: the handshake, or its reply, or neither (R201, R217). -/
abbrev handshakeUnderWay (x : Session) : Prop :=
  if x.down = [] then
    x.up = [] ∨ (x.up = [.ctrl Config.ackKind 0] ∧ x.receiver.srr.st ≠ .awaitHs ∧
      x.receiver.srr.n = x.sender.srs.n ∧ x.receiver.srr.w = x.sender.srs.w)
  else
    x.down.length = 1 ∧ x.up = [] ∧ ∀ m ∈ x.down, handshakeIntact x.sender.srs.n x.sender.srs.w m = true

/-- A Selective-Repeat session that has delivered nothing but the original, and in which what the sender takes for
acknowledged is flagged at the receiver (R226). -/
abbrev SrSessionInv (x : Session) : Prop :=
  Inv x.sender ∧ Inv x.receiver ∧ x.sender.mode = .srTx ∧ x.receiver.mode = .srRx ∧
  (∀ m ∈ x.down, (handshakeIntact x.sender.srs.n x.sender.srs.w m ||
    packetIntact x.receiver.par.maxChunk x.sender.srs.n x.sender.srs.chunk m) = true) ∧
  (x.sender.srs.st = .awaitHsAck → handshakeUnderWay x) ∧
  (0 < x.sender.srs.nextSeq →
    x.receiver.srr.st ≠ .awaitHs ∧ x.receiver.srr.n = x.sender.srs.n ∧ x.receiver.srr.w = x.sender.srs.w) ∧
  storedIntact x.sender.srs.chunk x.receiver.srr.rb ∧
  (∀ k < x.sender.srs.nextSeq, readBit x.sender.srs.outst k = false → readBit x.receiver.srr.flags k = true) ∧
  (x.sender.srs.st = .awaitReply → ∀ m ∈ x.up, ackFlagged x.receiver.srr.flags m = true) ∧
  (0 < x.receiver.srr.n → x.receiver.srr.n = x.sender.srs.n ∧
    (x.receiver.srr.rcount = x.receiver.srr.n → x.receiver.srr.st = .done)) ∧
  x.sunk = (if x.receiver.srr.st = .done then [x.sender.srs.chunk.flatten] else []) ∧
  (x.sender.srs.st = .done → x.receiver.srr.st = .done)

/-- A choice of the environment inside one session: nobody resets or starts an instance, and a frame that is altered is
altered so that the receiver's codec sees it (R129, R250). -/
def fairMove (maxChunk : Option Nat) (m : Move) : Prop :=
  match m with
  | .toSender e => e = .stop ∨ e = .timeout ∨ e = .transportFail
  | .toReceiver e => e = .stop ∨ e = .timeout ∨ e = .transportFail
  | .deliverDown => True
  | .deliverUp => True
  | .drop => True
  | .corrupt frame => (decodeFrame maxChunk frame).valid = false

end Sys2Proof.Machine
end

