-- ==== Sys2Proof/Certificates/Slice0/Obligations.lean ====
section
/-!
DEFINITION. The statements for the provers. Each docstring names the rules of spec/ it formalises; where the spec marks
a rule as its own decision or derivation, the docstring says so.
-/

section

open Sys2Proof Sys2Proof.Machine

/-! ## Encoding -/

/-- Every well-formed operation is read back from its own encoding, with every operand at every value the encoding
admits (R81 to R86, R97). -/
def Obligations.EncodeThenDecode : Prop :=
  ∀ (maxChunk : Option Nat) (i : Instr), i.wellFormed maxChunk = true → decode maxChunk (encode i) = .ok i

/-- What decodes is well formed and drops no byte (R81 to R86, R96). An operation stands for itself. Bytes are the encoding
of what they decode to, but for a reply read in the handshake phase whose kind is not 0x06, which is the same control reply
as in any phase (R93, R245), and for bytes without an envelope that are no FRAME row, which go whole to DECODE (the model's
choice: notes/assumptions/9.md). -/
def Obligations.DecodeThenEncode : Prop :=
  ∀ (maxChunk : Option Nat) (it : Item) (i : Instr), decode maxChunk it = .ok i →
    i.wellFormed maxChunk = true ∧ (∀ j, it = .op j → i = j) ∧
    ∀ fmt bytes, it = .wire fmt bytes →
      encode i = it ∨ (fmt = .hsr ∧ bytes.head? ≠ some 0x06 ∧ encode i = .wire .ctrl bytes) ∨
        (fmt = .frame ∧ i = .decode bytes ∧ (bytes.length < 6 ∨ bytes.take 3 ≠ [0x16, 0x16, 0x02]))

/-- Words written out from the spec's layouts decode to the rows they stand for. The zero bytes that fill up the
frame word and the `LEN` bytes after the envelope word, and `ACK` for the word it shares with `HSACK`, are the model's
choice (notes/assumptions/13.md). -/
def Obligations.TableWordsDecode : Prop :=
  decodeTableWord 24 0x06002C = some (.ack 44) ∧ decodeTableWord 24 0x21012C = some (.nak 300) ∧
  decodeTableWord 24 0x150001 = some (.ctrlRsvd 0x15 1) ∧
  decodeTableWord 64 0x0000000A00000004 = some (.hs 10 4) ∧
  decodeTableWord 56 0x00000002010001 = some (.env 256 1 [0, 0]) ∧
  decodeTableWord 24 0x161602 = some (.frame [] 0 0) ∧
  decode none (.wire .hsr [0x06, 0x00, 0x00]) = .ok (.hsack 0)

/-- One step: the item presented next is decoded and run; with nothing presented the instance waits (R278). The queue of
presented items is the model's (notes/assumptions/2.md). That an item which does not decode is refused by name is the
model's choice (notes/assumptions/13.md): R245 only leaves such streams outside what the spec models. -/
def Obligations.StepRunsTheDecoded : Prop :=
  ∀ (s : State) (it : Item) (rest : List Item) (i : Instr) (why : Reject),
    (s.input = it :: rest → decode s.par.maxChunk it = .ok i → step s = exec i { s with input := rest }) ∧
    (s.input = it :: rest → decode s.par.maxChunk it = .error why → step s = .refused (.undecodable why)) ∧
    (s.input = [] → step s = .next s)

/-! ## Reset -/

/-- `RESET` in every state writes every element of the record to its reset value, emits nothing and touches neither the
parameters nor what has been emitted or presented (R35, R248, R291). The spec marks these values as its decision D11. -/
def Obligations.ResetWritesTheResetValues : Prop :=
  ∀ s : State, exec .reset s = .next { s with
    mode := .none
    sws := { st := .idle, n := 0, i := 0, currSeq := 0, retry := 0, err := .none, chunk := [] }
    swr := { st := .idle, lastIdx := none, rxStat := .ok, err := .none, rb := [] }
    srs := { st := .idle, n := 0, w := 0, winBase := 0, nextSeq := 0, retry := 0, err := .none, outst := [], chunk := [] }
    srr := { st := .idle, n := 0, w := 0, rcount := 0, lastSeen := false, oor := false, rxStat := .ok, err := .none,
             flags := [], nakSent := [], rb := [] } }

/-- The state after power-on satisfies the invariants of R36 and has its storage in canonical form, whatever the
parameters are (`MAX_CHUNK` being 1 or more, R7). -/
def Obligations.ResetStateIsGood : Prop :=
  ∀ p : Params, ParInv p → Inv { State.reset with par := p } ∧ Memory.wf { State.reset with par := p }

/-! ## Invariants of every step -/

/-- Every step on an input event or channel message keeps the invariants of R36, from every state that has them; and
except by `RESET` no present entry of a reassembly buffer changes (R36 item 5, R64). R36 is marked as derived by the
spec; `Inv` also holds the ranges of R24 to R31. -/
def Obligations.EventStepKeepsInvariants : Prop :=
  ∀ (s t : State) (it : Item) (rest : List Item) (i : Instr), Inv s → s.input = it :: rest →
    decode s.par.maxChunk it = .ok i → isEventRow i = true → step s = .next t →
    Inv t ∧ (i ≠ .reset → ∀ (k : Nat) (c : Bytes),
      (readEntry s.swr.rb k = some c → readEntry t.swr.rb k = some c) ∧
      (readEntry s.srr.rb k = some c → readEntry t.srr.rb k = some c))

/-- No input event and no channel message stops a good state: there is always a next state (R11, R258, R263: errors are
states of the block, never an end of the machine). -/
def Obligations.EventStepAlwaysCompletes : Prop :=
  ∀ (s : State) (it : Item) (rest : List Item) (i : Instr), Inv s → s.input = it :: rest →
    decode s.par.maxChunk it = .ok i → isEventRow i = true → ∃ t, step s = .next t

/-- Every step, on any operation, keeps every storage array in its canonical form (the model's form of R30 and R31:
notes/assumptions/15.md). -/
def Obligations.EveryStepKeepsMemoryForm : Prop :=
  ∀ s t : State, Memory.wf s → step s = .next t → Memory.wf t

/-- Every step, on any operation: the parameters stay (R29, R274), one item is consumed (R11), and what was emitted
before stands (R11, R266). -/
def Obligations.EveryStepConsumesOneAndOnlyAppends : Prop :=
  ∀ s t : State, step s = .next t → t.par = s.par ∧ t.input = s.input.tail ∧ s.tx <+: t.tx ∧ s.free ≤ t.free

/-- `MODE` and the chunk stores: outside `MODE = NONE` only `RESET` writes them (R21, R246, R249), from `MODE = NONE` only a
start leads out, and what does not lead out leaves the chunk stores as they are. -/
def Obligations.OnlyResetAndStartsWriteRole : Prop :=
  ∀ (i : Instr) (s t : State), exec i s = .next t → i ≠ .reset →
    (s.mode ≠ .none → t.mode = s.mode ∧ t.sws.chunk = s.sws.chunk ∧ t.srs.chunk = s.srs.chunk) ∧
    (s.mode = .none → t.mode = .none → t.sws.chunk = s.sws.chunk ∧ t.srs.chunk = s.srs.chunk) ∧
    (s.mode = .none → t.mode ≠ .none →
      (∃ r, i = .startCommon r) ∨ (∃ n chunks, i = .swsStart n chunks) ∨ i = .swrStart ∨
        (∃ n w chunks, i = .srsStart n w chunks) ∨ i = .srrStart)

/-- What the peer can do through the channel: a message never changes `MODE`, the parameters, a chunk store, or an engine
that is not the active one; it sets `N` and `W` only at a receiver that awaits the handshake (R274; the spec's decision
D37). -/
def Obligations.PeerTrafficIsConfined : Prop :=
  ∀ (i : Instr) (s t : State), i.isWire = true → exec i s = .next t →
    t.mode = s.mode ∧ t.par = s.par ∧ t.sws.chunk = s.sws.chunk ∧ t.srs.chunk = s.srs.chunk ∧
    t.sws.n = s.sws.n ∧ t.srs.n = s.srs.n ∧ t.srs.w = s.srs.w ∧
    (s.srr.st ≠ .awaitHs → t.srr.n = s.srr.n ∧ t.srr.w = s.srr.w) ∧
    (s.mode ≠ .swTx → t.sws = s.sws) ∧ (s.mode ≠ .swRx → t.swr = s.swr) ∧
    (s.mode ≠ .srTx → t.srs = s.srs) ∧ (s.mode ≠ .srRx → t.srr = s.srr)

/-- In a terminal state every event but `RESET` is ignored: nothing changes and nothing is emitted (R22, R189, R225, R267;
the spec's decision D4). A bare frame is no event (notes/assumptions/9.md). -/
def Obligations.EndedSessionIsFrozen : Prop :=
  ∀ (i : Instr) (s : State), RoleInv s → ended s → isEventRow i = true → i ≠ .reset →
    (∀ body etx csum, i ≠ .frame body etx csum) → exec i s = .next s

/-- `WINBASE` and `NEXTSEQ` never decrease, and the four window invariants hold after every step (R158, which the spec
marks as derived). -/
def Obligations.WindowNeverMovesBack : Prop :=
  ∀ (s t : State) (it : Item) (rest : List Item) (i : Instr), Inv s → s.input = it :: rest →
    decode s.par.maxChunk it = .ok i → isEventRow i = true → i ≠ .reset → step s = .next t →
    s.srs.winBase ≤ t.srs.winBase ∧ s.srs.nextSeq ≤ t.srs.nextSeq ∧
    t.srs.winBase ≤ t.srs.nextSeq ∧ t.srs.nextSeq ≤ t.srs.n ∧ t.srs.nextSeq ≤ t.srs.winBase + t.srs.w ∧
    (∀ k, readBit t.srs.outst k = true → t.srs.winBase ≤ k ∧ k < t.srs.nextSeq) ∧ t.srs.outst.length ≤ t.srs.w ∧
    (t.srs.winBase = t.srs.nextSeq ∨ readBit t.srs.outst t.srs.winBase = true)

/-- The state register of every engine changes only along the transitions of R23, which the spec marks as derived; on
`RESET` every engine becomes `Idle`. -/
def Obligations.StateChangesFollowTheTable : Prop :=
  ∀ (s t : State) (it : Item) (rest : List Item) (i : Instr), Inv s → s.input = it :: rest →
    decode s.par.maxChunk it = .ok i → isEventRow i = true → step s = .next t →
    (i ≠ .reset → swsEdge s.sws.st t.sws.st = true ∧ swrEdge s.swr.st t.swr.st = true ∧
      srsEdge s.srs.st t.srs.st = true ∧ srrEdge s.srr.st t.srr.st = true) ∧
    (i = .reset → t.sws.st = .idle ∧ t.swr.st = .idle ∧ t.srs.st = .idle ∧ t.srr.st = .idle)

/-- Whatever a sender emits, first transmission or repeated, is a packet of its chunk array under its own full index, framed
afresh, with `last` on the last index alone; the one exception is the handshake with the fields `N` and `W`, which the
Selective-Repeat sender alone emits and only as it starts; a receiver emits control replies and the hand-off alone; without
a role nothing is emitted (R71, R87, R165, R201, R241, R308). R71 is marked as derived by the spec. -/
def Obligations.EverySentFrameIsItsChunk : Prop :=
  ∀ (s t : State) (it : Item) (rest : List Item) (i : Instr) (m : Message), Inv s → s.input = it :: rest →
    decode s.par.maxChunk it = .ok i → isEventRow i = true → step s = .next t → m ∈ t.tx.drop s.tx.length →
    (t.mode = .swTx → packetMessage t.sws.n t.sws.chunk m) ∧
    (t.mode = .srTx → packetMessage t.srs.n t.srs.chunk m ∨
      (s.mode = .none ∧ ∃ n w : I32, m = .hs n w ∧ n.toInt = t.srs.n ∧ w.toInt = t.srs.w)) ∧
    (t.mode = .swRx ∨ t.mode = .srRx → (∃ kind num, m = .ctrl kind num) ∨ (∃ bytes, m = .sink bytes)) ∧
    t.mode ≠ .none

/-- A `SINK` is emitted only by the step that ends a receiver's session in `Done` with no error, and carries the
concatenation of the complete buffer in index order (R73, R247). -/
def Obligations.SinkIsTheWholeBuffer : Prop :=
  ∀ (s t : State) (it : Item) (rest : List Item) (i : Instr) (b : Bytes), Inv s → s.input = it :: rest →
    decode s.par.maxChunk it = .ok i → isEventRow i = true → step s = .next t →
    Message.sink b ∈ t.tx.drop s.tx.length →
    (t.mode = .swRx ∧ s.swr.st = .receiving ∧ t.swr.st = .done ∧ t.swr.err = .none ∧
      ∃ l : U16, t.swr.lastIdx = some l ∧ full t.swr.rb (l.toNat + 1) ∧ b = joined t.swr.rb (l.toNat + 1)) ∨
    (t.mode = .srRx ∧ s.srr.st = .receiving ∧ t.srr.st = .done ∧ t.srr.err = .none ∧
      full t.srr.rb t.srr.n ∧ b = joined t.srr.rb t.srr.n)

/-! ## Frame codec -/

/-- STUFF: an escape byte before every reserved byte and nothing else, as the result; no other state changes (R121). -/
def Obligations.StuffEscapesReservedBytes : Prop :=
  ∀ (x : Bytes) (s : State), exec (.stuff x) s = .next { s with
    ret := .bytes (x.flatMap fun b =>
      if b = 0x16#8 ∨ b = 0x02#8 ∨ b = 0x03#8 ∨ b = 0x10#8 then [0x10#8, b] else [b]) }

/-- UNSTUFF removes each escape byte and takes the byte after it literally; a lone final escape gives nothing and an
unescaped reserved byte is data (R122; the spec's decisions D21, D23). -/
def Obligations.UnstuffRemovesEscapes : Prop :=
  ∀ (y : Bytes) (s : State), exec (.unstuff y) s = .next { s with ret := .bytes (unstuff y) } ∧
    unstuff [] = [] ∧ unstuff [0x10#8] = [] ∧
    (∀ b r, unstuff (0x10#8 :: b :: r) = b :: unstuff r) ∧ (∀ b r, b ≠ 0x10#8 → unstuff (b :: r) = b :: unstuff r)

/-- UNSTUFF undoes STUFF on every byte sequence; STUFF does not undo UNSTUFF (R127). -/
def Obligations.UnstuffUndoesStuff : Prop :=
  (∀ (x : Bytes) (s : State), exec (.unstuff (stuff x)) s = .next { s with ret := .bytes x }) ∧
    stuff (unstuff [0x10#8, 0x41#8]) ≠ [0x10#8, 0x41#8] ∧ stuff (unstuff [0x16#8]) ≠ [0x16#8]

/-- CSUM16 is the complement of the folded total of the big-endian 16-bit words (R62, R123): 0 for a total of 0, else the
number in 1 .. 0xFFFF congruent to the total modulo 0xFFFF. The spec marks that form of the sum as derived. -/
def Obligations.ChecksumIsTheFoldedTotal : Prop :=
  ∀ (y : Bytes) (s : State), ∃ k : U16, exec (.csum16 y) s = .next { s with ret := .word k } ∧
    k.toNat = if wordTotal y = 0 then 0xFFFF else 0xFFFF - ((wordTotal y - 1) % 0xFFFF + 1)

/-- ENCODE: header, stuffed body, end marker, checksum of the stuffed body, most significant byte first (R124). -/
def Obligations.EncodeLaysOutTheFrame : Prop :=
  ∀ (c : Bytes) (s : State), exec (.encode c) s = .next { s with
      ret := .bytes ([0x16#8, 0x16#8, 0x02#8] ++ stuff c ++
        [0x03#8, BitVec.ofNat 8 ((csum16 (stuff c)).toNat / 256), BitVec.ofNat 8 (csum16 (stuff c)).toNat]) }

/-- Stuffing adds one byte for each reserved byte and a frame six more: between `n + 6` and `2 n + 6` bytes for a chunk of
`n`, and one more is `TOO_LONG` where the frame of `MAX_CHUNK` reserved bytes is not (R130, which the spec marks as
derived). -/
def Obligations.FrameLengths : Prop :=
  ∀ (c : Bytes) (k : Nat), (stuff c).length = c.length + c.countP reserved ∧
    (encodeFrame c).length = c.length + c.countP reserved + 6 ∧ c.length + 6 ≤ (encodeFrame c).length ∧
    (encodeFrame c).length ≤ 2 * c.length + 6 ∧
    (encodeFrame (List.replicate k 0x10#8)).length = 6 + 2 * k ∧ tooLong (some k) (6 + 2 * k) = false ∧
    tooLong (some k) (6 + 2 * k + 1) = true

/-- DECODE of ENCODE gives the chunk, valid, `OK` (R128). -/
def Obligations.DecodeOfEncode : Prop :=
  ∀ (c : Bytes) (s : State), (∀ k ∈ s.par.maxChunk, c.length ≤ k) →
    exec (.decode (encodeFrame c)) s = .next { s with ret := .decoded c true .ok }

/-- DECODE: the first failing check in the order length, header, trailer, checksum gives the status; a structural failure
gives the empty chunk, a checksum failure the unstuffed body (R125; the spec's decisions D7, D22). The row FRAME has the
same result (notes/assumptions/9.md). -/
def Obligations.DecodeReportsTheFirstFailure : Prop :=
  ∀ (f body : Bytes) (etx hi lo : Byte) (csum : U16) (s : State),
    (f.length < 6 → exec (.decode f) s = .next { s with ret := .decoded [] false .tooShort }) ∧
    (6 ≤ f.length → (∃ k ∈ s.par.maxChunk, 6 + 2 * k < f.length) →
      exec (.decode f) s = .next { s with ret := .decoded [] false .tooLong }) ∧
    (6 ≤ f.length → (∀ k ∈ s.par.maxChunk, f.length ≤ 6 + 2 * k) → f.take 3 ≠ [0x16, 0x16, 0x02] →
      exec (.decode f) s = .next { s with ret := .decoded [] false .badHeader }) ∧
    ((∀ k ∈ s.par.maxChunk, body.length ≤ 2 * k) → etx ≠ 0x03#8 →
      exec (.decode ([0x16, 0x16, 0x02] ++ body ++ [etx, hi, lo])) s =
        .next { s with ret := .decoded [] false .badTrailer }) ∧
    ((∀ k ∈ s.par.maxChunk, body.length ≤ 2 * k) →
      exec (.decode ([0x16, 0x16, 0x02] ++ body ++ [0x03, hi, lo])) s =
        .next { s with ret :=
          if (csum16 body).toNat = hi.toNat * 256 + lo.toNat then .decoded (unstuff body) true .ok
          else .decoded (unstuff body) false .badChecksum }) ∧
    (∃ t, exec (.frame body etx csum) s = .next t ∧ exec (.decode (frameBytes body etx csum)) s = .next t)

/-- Replacing any one byte of an encoded frame by another value makes it invalid: a header byte `BAD_HEADER`, the end
marker `BAD_TRAILER`, a byte of the body or of the checksum `BAD_CHECKSUM` (R129, which the spec marks as derived). -/
def Obligations.EverySingleByteChangeIsDetected : Prop :=
  ∀ (c : Bytes) (k : Nat) (b : Byte) (s : State), (∀ m ∈ s.par.maxChunk, c.length ≤ m) →
    k < (encodeFrame c).length → b ≠ (encodeFrame c).getD k 0 →
    ∃ (x : Bytes) (status : RxStat),
      exec (.decode ((encodeFrame c).set k b)) s = .next { s with ret := .decoded x false status } ∧
      status = if k < 3 then .badHeader else if k + 3 = (encodeFrame c).length then .badTrailer else .badChecksum

/-- Changes of a body the checksum does not see: two aligned words exchanged, an aligned zero word inserted or removed, a
zero byte appended to an odd body, an aligned word 0x0000 against 0xFFFF beside a non-zero word (R133, which the spec
marks as derived). -/
def Obligations.ChecksumBlindSpots : Prop :=
  ∀ (a m d : Bytes) (w x y z : Byte),
    (a.length % 2 = 0 → m.length % 2 = 0 →
      csum16 (a ++ [w, x] ++ m ++ [y, z] ++ d) = csum16 (a ++ [y, z] ++ m ++ [w, x] ++ d)) ∧
    (a.length % 2 = 0 → csum16 (a ++ [0, 0] ++ d) = csum16 (a ++ d)) ∧
    (a.length % 2 = 1 → csum16 (a ++ [0]) = csum16 a) ∧
    (a.length % 2 = 0 → wordTotal (a ++ d) ≠ 0 → csum16 (a ++ [0, 0] ++ d) = csum16 (a ++ [0xFF, 0xFF] ++ d))

/-- The byte-serial codec computes the same bytes and the same checksum as the functions, for every chunk and every body
(R131, which the spec marks as informative and derived). -/
def Obligations.StreamingCodecAgrees : Prop :=
  ∀ c y : Bytes, (streamEncode c).out = stuff c ∧ streamChecksum (streamEncode c) = csum16 (stuff c) ∧
    (streamDecode y).out = unstuff y ∧ streamChecksum (streamDecode y) = csum16 y

/-! ## Sequence-number tracker and window manager -/

/-- SEQ_OF, SEQ_INC, ISLAST_OF, IDX_VALID, WIN_INIT, WIN_HI, WIN_DONE, ACKED (R150, R151, R165, R163, R152, R153, R157,
R159): the result or the registers written, and nothing else. -/
def Obligations.TrackerQueriesAndInit : Prop :=
  ∀ (idx : U16) (i n w : Nat) (s : State),
    exec (.seqOf idx) s = .next { s with ret := .tag (BitVec.ofNat 8 idx.toNat) } ∧
    exec .seqInc s = .next { s with sws := { s.sws with currSeq := s.sws.currSeq + 1#8 } } ∧
    exec (.islastOf i n) s = .next { s with ret := .bool (decide (i + 1 = n)) } ∧
    exec (.idxValid idx) s = .next { s with ret := .bool (decide (idx.toNat < s.srr.n)) } ∧
    exec (.winInit n w) s = .next { s with
      srs := { s.srs with n := n, w := w, winBase := 0, nextSeq := 0, outst := [] } } ∧
    exec .winHi s = .next { s with ret := .count (min s.srs.n (s.srs.winBase + s.srs.w)) } ∧
    (∃ b, exec .winDone s = .next { s with ret := .bool b } ∧
      (b = true ↔ s.srs.n ≤ s.srs.winBase ∧ ∀ j, readBit s.srs.outst j = false)) ∧
    (∃ b, exec (.acked i) s = .next { s with ret := .bool b } ∧
      (b = true ↔ i < s.srs.nextSeq ∧ readBit s.srs.outst i = false))

/-- WIN_FILL and its other name FILL: the packets from `NEXTSEQ` to `WIN_HI - 1` leave in ascending order, each becomes
outstanding, and `NEXTSEQ` becomes `WIN_HI` if that is higher (R99, R154). -/
def Obligations.WindowFillSendsTheRange : Prop :=
  ∀ s : State, (min s.srs.n (s.srs.winBase + s.srs.w) ≤ s.srs.chunk.length ∨
      min s.srs.n (s.srs.winBase + s.srs.w) ≤ s.srs.nextSeq) →
    ∃ (outst : BitArray) (t : State), exec .winFill s = .next t ∧ exec .fill s = .next t ∧
      t = { s with
        srs := { s.srs with nextSeq := max s.srs.nextSeq (min s.srs.n (s.srs.winBase + s.srs.w)), outst := outst }
        tx := s.tx ++ sent s.srs.n s.srs.chunk
          (List.range' s.srs.nextSeq (min s.srs.n (s.srs.winBase + s.srs.w) - s.srs.nextSeq)) } ∧
      ∀ j, readBit outst j =
        (readBit s.srs.outst j || decide (s.srs.nextSeq ≤ j ∧ j < min s.srs.n (s.srs.winBase + s.srs.w)))

/-- WIN_ACK clears the bit of an outstanding index below `N` and says so; any other number changes nothing (R155; the
spec's decision D29). WIN_ADVANCE moves `WINBASE` to the first outstanding index at or above it, or to `NEXTSEQ` (R156;
the spec's decision D26). -/
def Obligations.WindowAckAndAdvance : Prop :=
  ∀ (num : U16) (s : State),
    (∃ (outst : BitArray), exec (.winAck num) s = .next { s with
        srs := { s.srs with outst := outst }
        ret := .bool (decide (num.toNat < s.srs.n) && readBit s.srs.outst num.toNat) } ∧
      ∀ j, readBit outst j = (readBit s.srs.outst j && !decide (j = num.toNat ∧ num.toNat < s.srs.n))) ∧
    (∃ base, exec .winAdvance s = .next { s with srs := { s.srs with winBase := base } } ∧
      s.srs.winBase ≤ base ∧ (s.srs.winBase ≤ s.srs.nextSeq → base ≤ s.srs.nextSeq) ∧
      (s.srs.nextSeq ≤ s.srs.winBase → base = s.srs.winBase) ∧
      (∀ j, s.srs.winBase ≤ j → j < base → readBit s.srs.outst j = false) ∧
      (s.srs.nextSeq ≤ base ∨ readBit s.srs.outst base = true))

/-- RX_MARK: a first delivery stores the chunk (if the entry is `ABSENT`, R64), sets the flag and counts; a duplicate
changes nothing but the result (R160). -/
def Obligations.MarkStoresFirstDelivery : Prop :=
  ∀ (idx : U16) (c : Bytes) (s : State), EntryArray.wf s.srr.rb → idx.toNat < s.srr.n →
    (readBit s.srr.flags idx.toNat = false → ∃ (flags : BitArray) (rb : EntryArray),
      exec (.rxMark idx c) s = .next { s with
        srr := { s.srr with rb := rb, flags := flags, rcount := s.srr.rcount + 1 }, ret := .bool true } ∧
      (∀ j, readBit flags j = (readBit s.srr.flags j || decide (j = idx.toNat))) ∧
      (∀ j, readEntry rb j =
        if j = idx.toNat then some ((readEntry s.srr.rb idx.toNat).getD c) else readEntry s.srr.rb j)) ∧
    (readBit s.srr.flags idx.toNat = true → exec (.rxMark idx c) s = .next { s with ret := .bool false })

/-- RX_COMPLETE is `(RCOUNT = N or LASTSEEN) and all N flags set`; in a state with the receiver's invariants it is
`RCOUNT = N` (R161, whose second half the spec marks as derived). -/
def Obligations.CompleteIsAllReceived : Prop :=
  ∀ s : State, ∃ b, exec .rxComplete s = .next { s with ret := .bool b } ∧
    (b = true ↔ (s.srr.rcount = s.srr.n ∨ s.srr.lastSeen = true) ∧ ∀ j < s.srr.n, readBit s.srr.flags j = true) ∧
    (SrrInv s.srr → (b = true ↔ s.srr.rcount = s.srr.n))

/-- NAK_ONCE is a test-and-set on one bit of `NAKSENT` (R162). -/
def Obligations.NakOnceTestsAndSets : Prop :=
  ∀ (idx : U16) (s : State), idx.toNat < s.srr.n → ∃ nakSent : BitArray,
    exec (.nakOnce idx) s = .next { s with
      srr := { s.srr with nakSent := nakSent }, ret := .bool (!readBit s.srr.nakSent idx.toNat) } ∧
    ∀ j, readBit nakSent j = (readBit s.srr.nakSent j || decide (j = idx.toNat))

/-- RETRY_TAKE for either sender: with budget left the register is incremented, with the budget spent the fatal-error
entry with `RetryExhausted` is taken and the register keeps its value (R164, R266; the spec's decision D8). -/
def Obligations.RetryTakeChargesOrRaises : Prop :=
  ∀ s : State,
    (budgetLeft s s.sws.retry →
      exec (.retryTake .sws) s = .next { s with sws := { s.sws with retry := s.sws.retry + 1 } }) ∧
    (budgetSpent s s.sws.retry →
      exec (.retryTake .sws) s = .next { s with sws := { s.sws with st := .failed, err := .retryExhausted } }) ∧
    (budgetLeft s s.srs.retry →
      exec (.retryTake .srs) s = .next { s with srs := { s.srs with retry := s.srs.retry + 1 } }) ∧
    (budgetSpent s s.srs.retry →
      exec (.retryTake .srs) s = .next { s with srs := { s.srs with st := .failed, err := .retryExhausted } })

/-! ## Storage -/

/-- MemRead gives the element as it is and changes nothing else (R63); naming an element that does not exist stops the
machine by name (R30: it never happens in a step; notes/assumptions/10.md). -/
def Obligations.MemReadReturnsTheElement : Prop :=
  ∀ (a : ArrayName) (i : Nat) (idx : U16) (e : Sender) (c : Bytes) (s : State),
    (s.sws.chunk[i]? = some c → exec (.memRead .swsChunk i) s = .next { s with ret := .entry (some c) }) ∧
    (s.srs.chunk[i]? = some c → exec (.memRead .srsChunk i) s = .next { s with ret := .entry (some c) }) ∧
    (i < 65536 → exec (.memRead .swrRb i) s = .next { s with ret := .entry (readEntry s.swr.rb i) }) ∧
    (i < s.srr.n → exec (.memRead .srrRb i) s = .next { s with ret := .entry (readEntry s.srr.rb i) } ∧
      exec (.memRead .flags i) s = .next { s with ret := .bit (readBit s.srr.flags i) } ∧
      exec (.memRead .nakSent i) s = .next { s with ret := .bit (readBit s.srr.nakSent i) }) ∧
    (i < s.srs.n → exec (.memRead .outst i) s = .next { s with ret := .bit (readBit s.srs.outst i) }) ∧
    (arrayLen a s ≤ i → exec (.memRead a i) s = .fault (.noSuchElement a i)) ∧
    (s.srr.n ≤ idx.toNat → exec (.rxMark idx c) s = .fault (.noSuchElement .flags idx.toNat) ∧
      exec (.nakOnce idx) s = .fault (.noSuchElement .nakSent idx.toNat)) ∧
    ((senderChunks e s).length ≤ i → exec (.send e i) s = .fault (.noSuchElement (senderArray e) i))

/-- MemWrite: one element takes the value, an entry of a reassembly buffer only if it is `ABSENT` (R64), and every other
element of the array and everything else in the state is as before (R10, R63). -/
def Obligations.MemWriteChangesOneElement : Prop :=
  ∀ (i : Nat) (c : Bytes) (b : Bool) (s : State), Memory.wf s →
    (i < 65536 → ∃ rb, exec (.memWrite (.swrRb i c)) s = .next { s with swr := { s.swr with rb := rb } } ∧
      ∀ j, readEntry rb j = if j = i then some ((readEntry s.swr.rb i).getD c) else readEntry s.swr.rb j) ∧
    (i < s.srr.n → ∃ rb, exec (.memWrite (.srrRb i c)) s = .next { s with srr := { s.srr with rb := rb } } ∧
      ∀ j, readEntry rb j = if j = i then some ((readEntry s.srr.rb i).getD c) else readEntry s.srr.rb j) ∧
    (i < s.srs.n → ∃ l, exec (.memWrite (.outst i b)) s = .next { s with srs := { s.srs with outst := l } } ∧
      ∀ j, readBit l j = if j = i then b else readBit s.srs.outst j) ∧
    (i < s.srr.n → ∃ l, exec (.memWrite (.flags i b)) s = .next { s with srr := { s.srr with flags := l } } ∧
      ∀ j, readBit l j = if j = i then b else readBit s.srr.flags j) ∧
    (i < s.srr.n → ∃ l, exec (.memWrite (.nakSent i b)) s = .next { s with srr := { s.srr with nakSent := l } } ∧
      ∀ j, readBit l j = if j = i then b else readBit s.srr.nakSent j)

/-- concat gives the present entries in index order and changes no buffer (R73); where an entry is `ABSENT` the result is
a free value (notes/assumptions/5.md). -/
def Obligations.ConcatJoinsInIndexOrder : Prop :=
  ∀ (n : Nat) (s : State),
    (full s.swr.rb n → exec (.concat .swr n) s = .next { s with ret := .bytes (joined s.swr.rb n) }) ∧
    (full s.srr.rb n → exec (.concat .srr n) s = .next { s with ret := .bytes (joined s.srr.rb n) }) ∧
    (¬ full s.swr.rb n → ∃ x, exec (.concat .swr n) s = .next { s with ret := .bytes x, free := s.free + 1 }) ∧
    (¬ full s.srr.rb n → ∃ x, exec (.concat .srr n) s = .next { s with ret := .bytes x, free := s.free + 1 })

/-! ## Serialisers, parsers and the operations that send -/

/-- The serialisers lay every field out most significant byte first and the parsers read it back, `PARSE_ENV` leaving the
rest of the stream and reading any non-zero `LAST` byte as true (R242 to R244; `LAST` and `LEN` by the spec's decisions
D16, D19). The `LEN` of a frame of 2^32 bytes or more is a free value (the model's choice: notes/assumptions/25.md); the
rest of its envelope is as for any other. -/
def Obligations.SerialisersAndParsersAgree : Prop :=
  ∀ (kind b : Byte) (num idx : U16) (n w : I32) (last : Bool) (frame rest : Bytes) (s : State),
    exec (.serCtrl kind num) s = .next { s with
      ret := .bytes [kind, BitVec.ofNat 8 (num.toNat / 256), BitVec.ofNat 8 num.toNat] } ∧
    exec (.parseCtrl [kind, BitVec.ofNat 8 (num.toNat / 256), BitVec.ofNat 8 num.toNat]) s =
      .next { s with ret := .event (.rxCtrl kind num) [] } ∧
    (frame.length < 2 ^ 32 → exec (.serEnv idx last frame) s = .next { s with
      ret := .bytes ([BitVec.ofNat 8 (frame.length / 2 ^ 24), BitVec.ofNat 8 (frame.length / 2 ^ 16),
        BitVec.ofNat 8 (frame.length / 2 ^ 8), BitVec.ofNat 8 frame.length, BitVec.ofNat 8 (idx.toNat / 256),
        BitVec.ofNat 8 idx.toNat, if last then 0x01 else 0x00] ++ frame) }) ∧
    (∃ len : I32, exec (.serEnv idx last frame) s = .next { s with
      ret := .bytes (be32 len ++ [BitVec.ofNat 8 (idx.toNat / 256), BitVec.ofNat 8 idx.toNat,
        if last then 0x01 else 0x00] ++ frame) }) ∧
    (frame.length < 2 ^ 32 →
      exec (.parseEnv ([BitVec.ofNat 8 (frame.length / 2 ^ 24), BitVec.ofNat 8 (frame.length / 2 ^ 16),
        BitVec.ofNat 8 (frame.length / 2 ^ 8), BitVec.ofNat 8 frame.length, BitVec.ofNat 8 (idx.toNat / 256),
        BitVec.ofNat 8 idx.toNat, b] ++ frame ++ rest)) s =
        .next { s with ret := .event (.rxData idx (decide (b ≠ 0)) frame) rest }) ∧
    exec (.serHs n w) s = .next { s with ret := .bytes (be32 n ++ be32 w) } ∧
    exec (.parseHs (be32 n ++ be32 w)) s = .next { s with ret := .event (.rxHs n w) [] } ∧
    be32 n = [BitVec.ofNat 8 (n.toNat / 2 ^ 24), BitVec.ofNat 8 (n.toNat / 2 ^ 16), BitVec.ofNat 8 (n.toNat / 2 ^ 8),
      BitVec.ofNat 8 n.toNat]

/-- The operations that send write the output alone: SEND of one chunk, SWS.SEND of the current chunk, RESEND_ALL of every
outstanding packet, lowest index first (R99, R172; the spec's decisions D14, D20). -/
def Obligations.SendingEmitsThePackets : Prop :=
  ∀ (i : Nat) (s : State),
    (i < s.sws.chunk.length →
      exec (.send .sws i) s = .next { s with tx := s.tx ++ sent s.sws.n s.sws.chunk [i] }) ∧
    (i < s.srs.chunk.length →
      exec (.send .srs i) s = .next { s with tx := s.tx ++ sent s.srs.n s.srs.chunk [i] }) ∧
    (s.sws.i < s.sws.chunk.length →
      exec .swsSend s = .next { s with tx := s.tx ++ sent s.sws.n s.sws.chunk [s.sws.i] }) ∧
    (BitArray.wf s.srs.outst → (∀ k, readBit s.srs.outst k = true → k < s.srs.chunk.length) →
      exec .resendAll s = .next { s with
        tx := s.tx ++ sent s.srs.n s.srs.chunk ((List.range s.srs.chunk.length).filter (readBit s.srs.outst)) })

/-- The four rows of the output messages, presented alone: the message joins what has been emitted, and nothing else
changes. That is the model's choice (notes/assumptions/24.md): R11 and R12 have messages as the output of engine steps
only. -/
def Obligations.MessagesAreEmitted : Prop :=
  ∀ (n w : I32) (idx : U16) (last : Bool) (x : Bytes) (kind : Byte) (num : U16) (s : State),
    exec (.txHs n w) s = .next { s with tx := s.tx ++ [.hs n w] } ∧
    exec (.txData idx last x) s = .next { s with tx := s.tx ++ [.data idx last x] } ∧
    exec (.txCtrl kind num) s = .next { s with tx := s.tx ++ [.ctrl kind num] } ∧
    exec (.sink x) s = .next { s with tx := s.tx ++ [.sink x] }

/-! ## Stop-and-Wait -/

/-- SWS.START, and START.COMMON with the same start: a legal start writes every register and sends packet 0; an illegal
`N` is `MalformedHandshake` with nothing sent; with a role taken it is ignored (R171, R249, R271; the spec's decisions
D36, D39). That a legal start writes `ERR` too is read from the column at START of R24, not from the pseudocode of R171
(DEDUCED: notes/assumptions/14.md). -/
def Obligations.StopWaitSenderStarts : Prop :=
  ∀ (n : I32) (c : Bytes) (chunks : List Bytes) (s : State),
    (s.mode = .none → 1 ≤ n.toInt → n.toInt ≤ 65536 → chunks[0]? = some c → ∃ t : State,
      exec (.swsStart n chunks) s = .next t ∧ exec (.startCommon (.swTx n chunks)) s = .next t ∧
      t = { s with
        mode := .swTx
        sws := { st := .awaitingAck, n := n.toInt.toNat, i := 0, currSeq := 0, retry := 0, err := .none, chunk := chunks }
        tx := s.tx ++ [.data 0 (decide (n.toInt = 1)) (encodeFrame c)] }) ∧
    (s.mode = .none → n.toInt ≤ 0 ∨ 65536 < n.toInt → ∃ t : State,
      exec (.swsStart n chunks) s = .next t ∧ exec (.startCommon (.swTx n chunks)) s = .next t ∧
      t = { s with mode := .swTx, sws := { s.sws with st := .failed, err := .malformedHandshake } }) ∧
    (s.mode ≠ .none → exec (.swsStart n chunks) s = .next s ∧ exec (.startCommon (.swTx n chunks)) s = .next s)

/-- SWS.ACK in `AwaitingAck`, and the channel message ACK at an instance in that role: the counter advances modulo 256,
the next chunk is sent or the session is done, whatever number the reply carries (R173). -/
def Obligations.StopWaitSenderAdvances : Prop :=
  ∀ (num : U16) (c : Bytes) (s : State),
    (s.sws.st = .awaitingAck → s.sws.i + 1 = s.sws.n → ∃ t : State,
      exec (.swsAck num) s = .next t ∧ (s.mode = .swTx → exec (.ack num) s = .next t) ∧
      t = { s with
        sws := { s.sws with st := .done, i := s.sws.i + 1, currSeq := s.sws.currSeq + 1#8, retry := 0 } }) ∧
    (s.sws.st = .awaitingAck → s.sws.i + 1 ≠ s.sws.n → s.sws.chunk[s.sws.i + 1]? = some c → ∃ t : State,
      exec (.swsAck num) s = .next t ∧ (s.mode = .swTx → exec (.ack num) s = .next t) ∧
      t = { s with
        sws := { s.sws with i := s.sws.i + 1, currSeq := s.sws.currSeq + 1#8, retry := 0 }
        tx := s.tx ++
          [.data (BitVec.ofNat 16 (s.sws.i + 1)) (decide (s.sws.i + 2 = s.sws.n)) (encodeFrame c)] })

/-- SWS.NAK and SWS.TIMEOUT in `AwaitingAck`, and the message NAK and the event TIMEOUT at an instance in that role: with
budget left the same packet is sent again and only `RETRY` changes; with the budget spent the session fails and nothing is
sent (R174, R175, R272; the spec's decisions D8, D9). -/
def Obligations.StopWaitSenderResends : Prop :=
  ∀ (num : U16) (c : Bytes) (s : State),
    (s.sws.st = .awaitingAck → budgetLeft s s.sws.retry → s.sws.chunk[s.sws.i]? = some c → ∃ t : State,
      exec (.swsNak num) s = .next t ∧ exec .swsTimeout s = .next t ∧
      (s.mode = .swTx → exec (.nak num) s = .next t ∧ exec .timeout s = .next t) ∧
      t = { s with
        sws := { s.sws with retry := s.sws.retry + 1 }
        tx := s.tx ++ [.data (BitVec.ofNat 16 s.sws.i) (decide (s.sws.i + 1 = s.sws.n)) (encodeFrame c)] }) ∧
    (s.sws.st = .awaitingAck → budgetSpent s s.sws.retry → ∃ t : State,
      exec (.swsNak num) s = .next t ∧ exec .swsTimeout s = .next t ∧
      (s.mode = .swTx → exec (.nak num) s = .next t ∧ exec .timeout s = .next t) ∧
      t = { s with sws := { s.sws with st := .failed, err := .retryExhausted } })

/-- SWR.START and SRR.START, and START.COMMON with the same starts: accepted without a role, ignored with one; nothing is
emitted (R181, R216, R249; the spec's decisions D4, D10, D36). That SRR.START writes the reset value to the registers R216
lets keep theirs is read from the column at START of R27 (DEDUCED: notes/assumptions/14.md). -/
def Obligations.ReceiversStart : Prop :=
  ∀ s : State,
    (s.mode = .none → ∃ t : State, exec .swrStart s = .next t ∧ exec (.startCommon .swRx) s = .next t ∧
      t = { s with
        mode := .swRx, swr := { st := .receiving, lastIdx := none, rxStat := .ok, err := .none, rb := [] } }) ∧
    (s.mode = .none → ∃ t : State, exec .srrStart s = .next t ∧ exec (.startCommon .srRx) s = .next t ∧
      t = { s with
        mode := .srRx
        srr := { st := .awaitHs, n := 0, w := 0, rcount := 0, lastSeen := false, oor := false, rxStat := .ok,
                 err := .none, flags := [], nakSent := [], rb := [] } }) ∧
    (s.mode ≠ .none → exec .swrStart s = .next s ∧ exec (.startCommon .swRx) s = .next s ∧
      exec .srrStart s = .next s ∧ exec (.startCommon .srRx) s = .next s)

/-- SWR.DATA with a valid frame, first delivery and duplicate, and the envelope at an instance in that role: the chunk is
stored if the entry is `ABSENT`, the reply is `ACK((idx + 1) mod 256)`, and with `last` the session ends with the hand-off
of the complete buffer or with `IncompleteReassembly` (R64, R182, R183, R186 to R188; R188 is the spec's decision D30). -/
def Obligations.StopWaitReceiverAccepts : Prop :=
  ∀ (idx : U16) (b : Byte) (frame c : Bytes) (s : State), s.swr.st = .receiving → EntryArray.wf s.swr.rb →
    decodeFrame s.par.maxChunk frame = { chunk := c, valid := true, status := .ok } →
    ∃ (rb : EntryArray) (t : State),
      (readEntry s.swr.rb idx.toNat = none →
        exec (.swrDataValidFirst idx (decide (b ≠ 0)) frame) s = .next t) ∧
      (readEntry s.swr.rb idx.toNat ≠ none →
        exec (.swrDataValidDup idx (decide (b ≠ 0)) frame) s = .next t ∧ rb = s.swr.rb) ∧
      (s.mode = .swRx → exec (.env idx b frame) s = .next t) ∧
      (∀ j, readEntry rb j =
        if j = idx.toNat then some ((readEntry s.swr.rb idx.toNat).getD c) else readEntry s.swr.rb j) ∧
      (b = 0 → t = { s with
        swr := { s.swr with rxStat := .ok, rb := rb }
        tx := s.tx ++ [.ctrl 0x06 (BitVec.ofNat 16 ((idx.toNat + 1) % 256))] }) ∧
      (b ≠ 0 → full rb (idx.toNat + 1) → t = { s with
        swr := { s.swr with st := .done, lastIdx := some idx, rxStat := .ok, rb := rb }
        tx := s.tx ++ [.ctrl 0x06 (BitVec.ofNat 16 ((idx.toNat + 1) % 256)), .sink (joined rb (idx.toNat + 1))] }) ∧
      (b ≠ 0 → ¬ full rb (idx.toNat + 1) → t = { s with
        swr := { s.swr with
          st := .done, lastIdx := some idx, rxStat := .ok, err := .incompleteReassembly, rb := rb }
        tx := s.tx ++ [.ctrl 0x06 (BitVec.ofNat 16 ((idx.toNat + 1) % 256))] })

/-- SWR.DATA with an invalid frame, and the envelope at an instance in that role: the status, and a `NAK` with the full
index; nothing is stored and `last` is not acted on (R184). -/
def Obligations.StopWaitReceiverRejects : Prop :=
  ∀ (idx : U16) (b : Byte) (frame c : Bytes) (status : RxStat) (s : State), s.swr.st = .receiving →
    decodeFrame s.par.maxChunk frame = { chunk := c, valid := false, status := status } → ∃ t : State,
      exec (.swrDataInvalid idx (decide (b ≠ 0)) frame) s = .next t ∧
      (s.mode = .swRx → exec (.env idx b frame) s = .next t) ∧
      t = { s with swr := { s.swr with rxStat := status }, tx := s.tx ++ [.ctrl 0x21 idx] }

/-- SWR.LAST in `Receiving` ends the session and hands off; SWR.HANDOFF alone hands off what `LASTIDX` says (R187, R188;
the spec's decision D30). With `LASTIDX = ABSENT` the index is a free value (notes/assumptions/6.md). -/
def Obligations.StopWaitHandOff : Prop :=
  ∀ (idx : U16) (s : State),
    (s.swr.st = .receiving → full s.swr.rb (idx.toNat + 1) → exec (.swrLast idx) s = .next { s with
      swr := { s.swr with lastIdx := some idx, st := .done }
      tx := s.tx ++ [.sink (joined s.swr.rb (idx.toNat + 1))] }) ∧
    (s.swr.st = .receiving → ¬ full s.swr.rb (idx.toNat + 1) → exec (.swrLast idx) s = .next { s with
      swr := { s.swr with lastIdx := some idx, st := .done, err := .incompleteReassembly } }) ∧
    (s.swr.lastIdx = some idx → full s.swr.rb (idx.toNat + 1) →
      exec .swrHandoff s = .next { s with tx := s.tx ++ [.sink (joined s.swr.rb (idx.toNat + 1))] }) ∧
    (s.swr.lastIdx = some idx → ¬ full s.swr.rb (idx.toNat + 1) →
      exec .swrHandoff s = .next { s with swr := { s.swr with err := .incompleteReassembly } }) ∧
    (s.swr.lastIdx = none → ∃ t : State, exec .swrHandoff s = .next t ∧
      (t = { s with swr := { s.swr with err := .incompleteReassembly }, free := s.free + 1 } ∨
        ∃ n, full s.swr.rb n ∧ t = { s with tx := s.tx ++ [.sink (joined s.swr.rb n)], free := s.free + 1 }))

/-! ## Selective-Repeat -/

/-- SRS.START, and START.COMMON with the same start: a legal start writes every register and sends the handshake; illegal
`N` or `W` is `MalformedHandshake` with nothing sent; with a role taken it is ignored (R152, R201, R249, R271; the spec's
decisions D5, D6, D36). That a legal start writes `ERR` too is read from the column at START of R26, not from the
pseudocode of R201 (DEDUCED: notes/assumptions/14.md). -/
def Obligations.SelectiveRepeatSenderStarts : Prop :=
  ∀ (n w : I32) (chunks : List Bytes) (s : State),
    (s.mode = .none → 1 ≤ n.toInt → n.toInt ≤ 65536 → 1 ≤ w.toInt → ∃ t : State,
      exec (.srsStart n w chunks) s = .next t ∧ exec (.startCommon (.srTx n w chunks)) s = .next t ∧
      t = { s with
        mode := .srTx
        srs := { st := .awaitHsAck, n := n.toInt.toNat, w := w.toInt.toNat, winBase := 0, nextSeq := 0, retry := 0,
                 err := .none, outst := [], chunk := chunks }
        tx := s.tx ++ [.hs n w] }) ∧
    (s.mode = .none → n.toInt ≤ 0 ∨ 65536 < n.toInt ∨ w.toInt ≤ 0 → ∃ t : State,
      exec (.srsStart n w chunks) s = .next t ∧ exec (.startCommon (.srTx n w chunks)) s = .next t ∧
      t = { s with mode := .srTx, srs := { s.srs with st := .failed, err := .malformedHandshake } }) ∧
    (s.mode ≠ .none →
      exec (.srsStart n w chunks) s = .next s ∧ exec (.startCommon (.srTx n w chunks)) s = .next s)

/-- SRS.HSACK in `AwaitHsAck`, and the channel messages HSACK and ACK at an instance in that role: the first fill sends the
packets 0 .. min(N, W) - 1, at least one, whatever the placeholder is (R93, R154, R202; the spec's decision D18). -/
def Obligations.HandshakeReplyOpensTheWindow : Prop :=
  ∀ (p : U16) (s : State), SrsInv s.par s.srs → s.srs.st = .awaitHsAck →
    ∃ (outst : BitArray) (t : State),
      exec (.srsHsack p) s = .next t ∧
      (s.mode = .srTx → exec (.hsack p) s = .next t ∧ exec (.ack p) s = .next t) ∧
      0 < min s.srs.n s.srs.w ∧ (∀ j, readBit outst j = decide (j < min s.srs.n s.srs.w)) ∧
      t = { s with
        srs := { s.srs with st := .awaitReply, nextSeq := min s.srs.n s.srs.w, outst := outst }
        tx := s.tx ++ sent s.srs.n s.srs.chunk (List.range (min s.srs.n s.srs.w)) }

/-- SRS.ACK in `AwaitReply`, and the channel message ACK at an instance in that role: the acknowledged index leaves the
outstanding set and resets the retry budget if it was in it, `WINBASE` moves to the first outstanding index or to
`NEXTSEQ`, and either the session is done, with nothing sent, or the window is filled (R155, R156, R203, R206; the spec's
decisions D26, D29). -/
def Obligations.AcknowledgementSlidesTheWindow : Prop :=
  ∀ (num : U16) (s : State), SrsInv s.par s.srs → s.srs.st = .awaitReply →
    ∃ (base : Nat) (outst : BitArray) (t : State),
      exec (.srsAck num) s = .next t ∧ (s.mode = .srTx → exec (.ack num) s = .next t) ∧
      s.srs.winBase ≤ base ∧ base ≤ s.srs.nextSeq ∧
      (∀ j, s.srs.winBase ≤ j → j < base → j = num.toNat ∨ readBit s.srs.outst j = false) ∧
      (base = s.srs.nextSeq ∨ (base ≠ num.toNat ∧ readBit s.srs.outst base = true)) ∧
      (∀ j, readBit outst j = ((readBit s.srs.outst j && decide (j ≠ num.toNat)) ||
        decide (s.srs.nextSeq ≤ j ∧ j < min s.srs.n (base + s.srs.w)))) ∧
      t = { s with
        srs := { s.srs with
          st := if base = s.srs.n then .done else .awaitReply
          winBase := base
          nextSeq := min s.srs.n (base + s.srs.w)
          retry := if readBit s.srs.outst num.toNat then 0 else s.srs.retry
          outst := outst }
        tx := s.tx ++ sent s.srs.n s.srs.chunk
          (List.range' s.srs.nextSeq (min s.srs.n (base + s.srs.w) - s.srs.nextSeq)) }

/-- SRS.NAK and SRS.TIMEOUT in `AwaitReply`, and the message NAK and the event TIMEOUT at an instance in that role: a NAK
resends its packet once if it was ever sent, a timeout every outstanding packet, lowest index first; only `RETRY` changes,
and with the budget spent the session fails with nothing sent (R204, R205, R272; the spec's decisions D27, D28). -/
def Obligations.SelectiveRepeatSenderResends : Prop :=
  ∀ (num : U16) (s : State),
    (s.srs.st = .awaitReply → s.srs.nextSeq ≤ num.toNat →
      exec (.srsNak num) s = .next s ∧ (s.mode = .srTx → exec (.nak num) s = .next s)) ∧
    (s.srs.st = .awaitReply → num.toNat < s.srs.nextSeq → budgetLeft s s.srs.retry →
      s.srs.nextSeq ≤ s.srs.chunk.length → ∃ t : State,
      exec (.srsNak num) s = .next t ∧ (s.mode = .srTx → exec (.nak num) s = .next t) ∧
      t = { s with
        srs := { s.srs with retry := s.srs.retry + 1 }, tx := s.tx ++ sent s.srs.n s.srs.chunk [num.toNat] }) ∧
    (s.srs.st = .awaitReply → budgetLeft s s.srs.retry → BitArray.wf s.srs.outst →
      s.srs.nextSeq ≤ s.srs.chunk.length → ∃ t : State,
      exec .srsTimeout s = .next t ∧ (s.mode = .srTx → exec .timeout s = .next t) ∧
      t = { s with
        srs := { s.srs with retry := s.srs.retry + 1 }
        tx := s.tx ++ sent s.srs.n s.srs.chunk
          ((List.range' s.srs.winBase (s.srs.nextSeq - s.srs.winBase)).filter (readBit s.srs.outst)) }) ∧
    (s.srs.st = .awaitReply → budgetSpent s s.srs.retry → ∃ t : State, exec .srsTimeout s = .next t ∧
      (num.toNat < s.srs.nextSeq →
        exec (.srsNak num) s = .next t ∧ (s.mode = .srTx → exec (.nak num) s = .next t)) ∧
      (s.mode = .srTx → exec .timeout s = .next t) ∧
      t = { s with srs := { s.srs with st := .failed, err := .retryExhausted } })

/-- SRR.HS with legal values and SRR.HS.MALFORMED with illegal ones in `AwaitHs`, and the handshake message at an instance
in that role: the arrays are sized and cleared and the reply is `06 00 00`, or the session fails with no reply (R217, R227,
R271; the malformed case is the spec's decision D33). -/
def Obligations.HandshakeOpensTheReceiver : Prop :=
  ∀ (n w : I32) (s : State),
    (s.srr.st = .awaitHs → 1 ≤ n.toInt → n.toInt ≤ 65536 → 1 ≤ w.toInt → ∃ t : State,
      exec (.srrHs n w) s = .next t ∧ (s.mode = .srRx → exec (.hs n w) s = .next t) ∧
      t = { s with
        srr := { st := .receiving, n := n.toInt.toNat, w := w.toInt.toNat, rcount := 0, lastSeen := false, oor := false,
                 rxStat := .ok, err := s.srr.err, flags := [], nakSent := [], rb := [] }
        tx := s.tx ++ [.ctrl 0x06 0x0000] }) ∧
    (s.srr.st = .awaitHs → n.toInt ≤ 0 ∨ 65536 < n.toInt ∨ w.toInt ≤ 0 → ∃ t : State,
      exec (.srrHsMalformed n w) s = .next t ∧ (s.mode = .srRx → exec (.hs n w) s = .next t) ∧
      t = { s with srr := { s.srr with st := .failed, err := .malformedHandshake } })

/-- SRR.DATA with a valid frame, first delivery, and the envelope at an instance in that role: the chunk is stored, the
flag set, the packet counted and acknowledged with its full index; the last missing packet, and no other, ends the session
with the hand-off of the whole buffer (R160, R219, R222, R223). -/
def Obligations.FirstDeliveryIsStoredAndAcknowledged : Prop :=
  ∀ (idx : U16) (b : Byte) (frame c : Bytes) (s : State), SrrInv s.srr → s.srr.st = .receiving →
    idx.toNat < s.srr.n → readBit s.srr.flags idx.toNat = false →
    decodeFrame s.par.maxChunk frame = { chunk := c, valid := true, status := .ok } →
    ∃ (flags : BitArray) (rb : EntryArray) (t : State),
      exec (.srrDataValidFirst idx (decide (b ≠ 0)) frame) s = .next t ∧
      (s.mode = .srRx → exec (.env idx b frame) s = .next t) ∧
      (∀ j, readBit flags j = (readBit s.srr.flags j || decide (j = idx.toNat))) ∧
      (∀ j, readEntry rb j = if j = idx.toNat then some c else readEntry s.srr.rb j) ∧
      (s.srr.rcount + 1 = s.srr.n → full rb s.srr.n) ∧
      t = { s with
        srr := { s.srr with
          st := if s.srr.rcount + 1 = s.srr.n then .done else .receiving
          rcount := s.srr.rcount + 1
          lastSeen := s.srr.lastSeen || decide (b ≠ 0)
          rxStat := .ok
          flags := flags
          rb := rb }
        tx := s.tx ++ (.ctrl 0x06 idx ::
          (if s.srr.rcount + 1 = s.srr.n then [.sink (joined rb s.srr.n)] else [])) }

/-- The other cases of SRR.DATA, and the envelope at an instance in that role: an index out of range is dropped before
its frame is looked at, with the sticky bit and the status; a duplicate is acknowledged again and not stored; an invalid
frame is answered by a `NAK` the first time for its index alone (R218, R220, R221, R224; the spec's decisions D31, D38). -/
def Obligations.OtherDeliveriesStoreNothing : Prop :=
  ∀ (idx : U16) (b : Byte) (frame c : Bytes) (status : RxStat) (s : State),
    (s.srr.st = .receiving → s.srr.n ≤ idx.toNat → ∃ t : State,
      exec (.srrDataOor idx (decide (b ≠ 0)) frame) s = .next t ∧
      (s.mode = .srRx → exec (.env idx b frame) s = .next t) ∧
      t = { s with srr := { s.srr with oor := true, rxStat := .outOfRange } }) ∧
    (s.srr.st = .receiving → idx.toNat < s.srr.n → readBit s.srr.flags idx.toNat = true →
      decodeFrame s.par.maxChunk frame = { chunk := c, valid := true, status := .ok } → ∃ t : State,
      exec (.srrDataValidDup idx (decide (b ≠ 0)) frame) s = .next t ∧
      (s.mode = .srRx → exec (.env idx b frame) s = .next t) ∧
      t = { s with
        srr := { s.srr with lastSeen := s.srr.lastSeen || decide (b ≠ 0), rxStat := .ok }
        tx := s.tx ++ [.ctrl 0x06 idx] }) ∧
    (s.srr.st = .receiving → idx.toNat < s.srr.n →
      decodeFrame s.par.maxChunk frame = { chunk := c, valid := false, status := status } →
      ∃ (nakSent : BitArray) (t : State),
      exec (.srrDataInvalid idx (decide (b ≠ 0)) frame) s = .next t ∧
      (s.mode = .srRx → exec (.env idx b frame) s = .next t) ∧
      (∀ j, readBit nakSent j = (readBit s.srr.nakSent j || decide (j = idx.toNat))) ∧
      t = { s with
        srr := { s.srr with rxStat := status, nakSent := nakSent }
        tx := s.tx ++ (if readBit s.srr.nakSent idx.toNat then [] else [.ctrl 0x21 idx]) })

/-! ## Host and environment events -/

/-- STOP and TRANSPORT_FAIL at a running engine: its state becomes `Stopped`, or `Failed` with `TransportFailure`; every
other register and array keeps its value and nothing is emitted (R266, R269, R270; the spec's decisions D4, D35). Without
a role, or in an ended session, nothing happens. -/
def Obligations.StopAndFailureEndTheSession : Prop :=
  ∀ s : State,
    (s.mode = .swTx → s.sws.st = .awaitingAck →
      exec .stop s = .next { s with sws := { s.sws with st := .stopped } } ∧
      exec .transportFail s = .next { s with sws := { s.sws with st := .failed, err := .transportFailure } }) ∧
    (s.mode = .swRx → s.swr.st = .receiving →
      exec .stop s = .next { s with swr := { s.swr with st := .stopped } } ∧
      exec .transportFail s = .next { s with swr := { s.swr with st := .failed, err := .transportFailure } }) ∧
    (s.mode = .srTx → s.srs.st = .awaitHsAck ∨ s.srs.st = .awaitReply →
      exec .stop s = .next { s with srs := { s.srs with st := .stopped } } ∧
      exec .transportFail s = .next { s with srs := { s.srs with st := .failed, err := .transportFailure } }) ∧
    (s.mode = .srRx → s.srr.st = .awaitHs ∨ s.srr.st = .receiving →
      exec .stop s = .next { s with srr := { s.srr with st := .stopped } } ∧
      exec .transportFail s = .next { s with srr := { s.srr with st := .failed, err := .transportFailure } }) ∧
    (s.mode = .none ∨ ended s → exec .stop s = .next s ∧ exec .transportFail s = .next s)

/-- What is ignored: IGNORE itself; a reserved kind of control reply at any engine; data, handshakes, control replies and
timeouts at an engine with no rule for them in its state, or without a role; and every engine rule out of the state it is
for (R91, R93, R176, R207, R258; the spec's decisions D1, D17, D18). R176 and R207 state the rows SWS.RSVD and SRS.RSVD
for reserved kinds; that they change nothing when given the kind 0x06 or 0x21 either is the model's choice
(notes/assumptions/8.md). STOP and TRANSPORT_FAIL without a running engine, and starts with a role taken, are in other
statements. -/
def Obligations.DefaultArmChangesNothing : Prop :=
  ∀ (kind b : Byte) (num idx : U16) (n w : I32) (last : Bool) (frame : Bytes) (s : State),
    exec .ignore s = .next s ∧ exec (.swsRsvd kind num) s = .next s ∧ exec (.srsRsvd kind num) s = .next s ∧
    (kind ≠ 0x06 → kind ≠ 0x21 → exec (.ctrlRsvd kind num) s = .next s) ∧
    ((s.mode = .swRx → s.swr.st ≠ .receiving) → (s.mode = .srRx → s.srr.st ≠ .receiving) →
      exec (.env idx b frame) s = .next s) ∧
    (s.mode ≠ .srRx ∨ s.srr.st ≠ .awaitHs → exec (.hs n w) s = .next s) ∧
    ((s.mode = .swTx → s.sws.st ≠ .awaitingAck) → (s.mode = .srTx → s.srs.st ≠ .awaitReply) →
      exec (.nak num) s = .next s ∧ exec .timeout s = .next s ∧
      ((s.mode = .srTx → s.srs.st ≠ .awaitHsAck) → exec (.ack num) s = .next s ∧ exec (.hsack num) s = .next s)) ∧
    (s.sws.st ≠ .awaitingAck →
      exec (.swsAck num) s = .next s ∧ exec (.swsNak num) s = .next s ∧ exec .swsTimeout s = .next s) ∧
    (s.swr.st ≠ .receiving → exec (.swrDataValidFirst idx last frame) s = .next s ∧
      exec (.swrDataValidDup idx last frame) s = .next s ∧ exec (.swrDataInvalid idx last frame) s = .next s ∧
      exec (.swrLast idx) s = .next s) ∧
    (s.srs.st ≠ .awaitHsAck → exec (.srsHsack num) s = .next s) ∧
    (s.srs.st ≠ .awaitReply →
      exec (.srsAck num) s = .next s ∧ exec (.srsNak num) s = .next s ∧ exec .srsTimeout s = .next s) ∧
    (s.srr.st ≠ .awaitHs → exec (.srrHs n w) s = .next s ∧ exec (.srrHsMalformed n w) s = .next s) ∧
    (s.srr.st ≠ .receiving → exec (.srrDataOor idx last frame) s = .next s ∧
      exec (.srrDataValidFirst idx last frame) s = .next s ∧ exec (.srrDataValidDup idx last frame) s = .next s ∧
      exec (.srrDataInvalid idx last frame) s = .next s)

/-! ## Two instances and the channel -/

/-- A Stop-and-Wait session over a channel that may delay, lose and detectably corrupt data, with any timeouts, stops and
failures at either end: the sink is handed the original stream or nothing, at most once (R190, R247, R250; the spec marks
R190 as derived). Which environment choices are admitted is the spec's decision D13; the session as a system is the model's
(notes/assumptions/18.md). -/
def Obligations.StopWaitSessionDeliversOnlyTheOriginal : Prop :=
  ∀ (p q : Params) (n : I32) (chunks : List Bytes) (ms : List Move) (x : Session),
    (∀ m ∈ ms, fairMove q.maxChunk m) →
    moves (.toReceiver (.start .swRx) :: .toSender (.start (.swTx n chunks)) :: ms) (Session.start p q) = some x →
    x.sunk = [] ∨ x.sunk = [chunks.flatten]

/-- The same for a Selective-Repeat session (R226, R247, R250; the spec marks R226's general form as derived): the sink is
handed the original stream or nothing, at most once; and when the sender is done the original has been handed over (R301).
The session as a system is the model's (notes/assumptions/18.md). -/
def Obligations.SelectiveRepeatSessionDeliversOnlyTheOriginal : Prop :=
  ∀ (p q : Params) (n w : I32) (chunks : List Bytes) (ms : List Move) (x : Session),
    (∀ m ∈ ms, fairMove q.maxChunk m) →
    moves (.toReceiver (.start .srRx) :: .toSender (.start (.srTx n w chunks)) :: ms) (Session.start p q) = some x →
    (x.sunk = [] ∨ x.sunk = [chunks.flatten]) ∧ (x.sender.srs.st = .done → x.sunk = [chunks.flatten])

/-- The session invariants are set up by the two starts and kept by every choice of the environment inside a session, from
every session that has them: what is under way and what is stored are the sender's own chunks at their own index, what the
Selective-Repeat sender takes for acknowledged is flagged at the receiver, and the sink holds the original stream exactly
when the receiver is done with no error (R190, R226, R250, R301; the spec marks R190 and R226's general form as derived).
The session as a system and its invariants are the model's (notes/assumptions/18.md). -/
def Obligations.FairMovesKeepSessionInvariants : Prop :=
  ∀ (x y : Session) (m : Move) (p q : Params) (n w : I32) (chunks : List Bytes),
    (fairMove x.receiver.par.maxChunk m → move m x = some y →
      (SwSessionInv x → SwSessionInv y) ∧ (SrSessionInv x → SrSessionInv y)) ∧
    (ParInv p → ParInv q →
      (moves [.toReceiver (.start .swRx), .toSender (.start (.swTx n chunks))] (Session.start p q) = some x →
        SwSessionInv x) ∧
      (moves [.toReceiver (.start .srRx), .toSender (.start (.srTx n w chunks))] (Session.start p q) = some x →
        SrSessionInv x))

end
end

