-- ==== Sys2Proof/Laws/State.lean ====
section
/-!
SUPPORT. Reading a field after a record update: one lemma per field per update, so that no proof unfolds an update.
-/

namespace Sys2Proof.Machine

@[simp] theorem State.setMode_mode (s : State) (m : Mode) : (s.setMode m).mode = m := rfl
@[simp] theorem State.setMode_sws (s : State) (m : Mode) : (s.setMode m).sws = s.sws := rfl
@[simp] theorem State.setMode_swr (s : State) (m : Mode) : (s.setMode m).swr = s.swr := rfl
@[simp] theorem State.setMode_srs (s : State) (m : Mode) : (s.setMode m).srs = s.srs := rfl
@[simp] theorem State.setMode_srr (s : State) (m : Mode) : (s.setMode m).srr = s.srr := rfl
@[simp] theorem State.setMode_par (s : State) (m : Mode) : (s.setMode m).par = s.par := rfl
@[simp] theorem State.setMode_input (s : State) (m : Mode) : (s.setMode m).input = s.input := rfl
@[simp] theorem State.setMode_tx (s : State) (m : Mode) : (s.setMode m).tx = s.tx := rfl
@[simp] theorem State.setMode_ret (s : State) (m : Mode) : (s.setMode m).ret = s.ret := rfl
@[simp] theorem State.setMode_free (s : State) (m : Mode) : (s.setMode m).free = s.free := rfl

@[simp] theorem State.setSws_mode (s : State) (e : Sws) : (s.setSws e).mode = s.mode := rfl
@[simp] theorem State.setSws_sws (s : State) (e : Sws) : (s.setSws e).sws = e := rfl
@[simp] theorem State.setSws_swr (s : State) (e : Sws) : (s.setSws e).swr = s.swr := rfl
@[simp] theorem State.setSws_srs (s : State) (e : Sws) : (s.setSws e).srs = s.srs := rfl
@[simp] theorem State.setSws_srr (s : State) (e : Sws) : (s.setSws e).srr = s.srr := rfl
@[simp] theorem State.setSws_par (s : State) (e : Sws) : (s.setSws e).par = s.par := rfl
@[simp] theorem State.setSws_input (s : State) (e : Sws) : (s.setSws e).input = s.input := rfl
@[simp] theorem State.setSws_tx (s : State) (e : Sws) : (s.setSws e).tx = s.tx := rfl
@[simp] theorem State.setSws_ret (s : State) (e : Sws) : (s.setSws e).ret = s.ret := rfl
@[simp] theorem State.setSws_free (s : State) (e : Sws) : (s.setSws e).free = s.free := rfl

@[simp] theorem State.setSwr_mode (s : State) (e : Swr) : (s.setSwr e).mode = s.mode := rfl
@[simp] theorem State.setSwr_sws (s : State) (e : Swr) : (s.setSwr e).sws = s.sws := rfl
@[simp] theorem State.setSwr_swr (s : State) (e : Swr) : (s.setSwr e).swr = e := rfl
@[simp] theorem State.setSwr_srs (s : State) (e : Swr) : (s.setSwr e).srs = s.srs := rfl
@[simp] theorem State.setSwr_srr (s : State) (e : Swr) : (s.setSwr e).srr = s.srr := rfl
@[simp] theorem State.setSwr_par (s : State) (e : Swr) : (s.setSwr e).par = s.par := rfl
@[simp] theorem State.setSwr_input (s : State) (e : Swr) : (s.setSwr e).input = s.input := rfl
@[simp] theorem State.setSwr_tx (s : State) (e : Swr) : (s.setSwr e).tx = s.tx := rfl
@[simp] theorem State.setSwr_ret (s : State) (e : Swr) : (s.setSwr e).ret = s.ret := rfl
@[simp] theorem State.setSwr_free (s : State) (e : Swr) : (s.setSwr e).free = s.free := rfl

@[simp] theorem State.setSrs_mode (s : State) (e : Srs) : (s.setSrs e).mode = s.mode := rfl
@[simp] theorem State.setSrs_sws (s : State) (e : Srs) : (s.setSrs e).sws = s.sws := rfl
@[simp] theorem State.setSrs_swr (s : State) (e : Srs) : (s.setSrs e).swr = s.swr := rfl
@[simp] theorem State.setSrs_srs (s : State) (e : Srs) : (s.setSrs e).srs = e := rfl
@[simp] theorem State.setSrs_srr (s : State) (e : Srs) : (s.setSrs e).srr = s.srr := rfl
@[simp] theorem State.setSrs_par (s : State) (e : Srs) : (s.setSrs e).par = s.par := rfl
@[simp] theorem State.setSrs_input (s : State) (e : Srs) : (s.setSrs e).input = s.input := rfl
@[simp] theorem State.setSrs_tx (s : State) (e : Srs) : (s.setSrs e).tx = s.tx := rfl
@[simp] theorem State.setSrs_ret (s : State) (e : Srs) : (s.setSrs e).ret = s.ret := rfl
@[simp] theorem State.setSrs_free (s : State) (e : Srs) : (s.setSrs e).free = s.free := rfl

@[simp] theorem State.setSrr_mode (s : State) (e : Srr) : (s.setSrr e).mode = s.mode := rfl
@[simp] theorem State.setSrr_sws (s : State) (e : Srr) : (s.setSrr e).sws = s.sws := rfl
@[simp] theorem State.setSrr_swr (s : State) (e : Srr) : (s.setSrr e).swr = s.swr := rfl
@[simp] theorem State.setSrr_srs (s : State) (e : Srr) : (s.setSrr e).srs = s.srs := rfl
@[simp] theorem State.setSrr_srr (s : State) (e : Srr) : (s.setSrr e).srr = e := rfl
@[simp] theorem State.setSrr_par (s : State) (e : Srr) : (s.setSrr e).par = s.par := rfl
@[simp] theorem State.setSrr_input (s : State) (e : Srr) : (s.setSrr e).input = s.input := rfl
@[simp] theorem State.setSrr_tx (s : State) (e : Srr) : (s.setSrr e).tx = s.tx := rfl
@[simp] theorem State.setSrr_ret (s : State) (e : Srr) : (s.setSrr e).ret = s.ret := rfl
@[simp] theorem State.setSrr_free (s : State) (e : Srr) : (s.setSrr e).free = s.free := rfl

@[simp] theorem State.setRet_mode (s : State) (r : Ret) : (s.setRet r).mode = s.mode := rfl
@[simp] theorem State.setRet_sws (s : State) (r : Ret) : (s.setRet r).sws = s.sws := rfl
@[simp] theorem State.setRet_swr (s : State) (r : Ret) : (s.setRet r).swr = s.swr := rfl
@[simp] theorem State.setRet_srs (s : State) (r : Ret) : (s.setRet r).srs = s.srs := rfl
@[simp] theorem State.setRet_srr (s : State) (r : Ret) : (s.setRet r).srr = s.srr := rfl
@[simp] theorem State.setRet_par (s : State) (r : Ret) : (s.setRet r).par = s.par := rfl
@[simp] theorem State.setRet_input (s : State) (r : Ret) : (s.setRet r).input = s.input := rfl
@[simp] theorem State.setRet_tx (s : State) (r : Ret) : (s.setRet r).tx = s.tx := rfl
@[simp] theorem State.setRet_ret (s : State) (r : Ret) : (s.setRet r).ret = r := rfl
@[simp] theorem State.setRet_free (s : State) (r : Ret) : (s.setRet r).free = s.free := rfl

@[simp] theorem State.emit_mode (s : State) (m : Message) : (s.emit m).mode = s.mode := rfl
@[simp] theorem State.emit_sws (s : State) (m : Message) : (s.emit m).sws = s.sws := rfl
@[simp] theorem State.emit_swr (s : State) (m : Message) : (s.emit m).swr = s.swr := rfl
@[simp] theorem State.emit_srs (s : State) (m : Message) : (s.emit m).srs = s.srs := rfl
@[simp] theorem State.emit_srr (s : State) (m : Message) : (s.emit m).srr = s.srr := rfl
@[simp] theorem State.emit_par (s : State) (m : Message) : (s.emit m).par = s.par := rfl
@[simp] theorem State.emit_input (s : State) (m : Message) : (s.emit m).input = s.input := rfl
@[simp] theorem State.emit_tx (s : State) (m : Message) : (s.emit m).tx = s.tx ++ [m] := rfl
@[simp] theorem State.emit_ret (s : State) (m : Message) : (s.emit m).ret = s.ret := rfl
@[simp] theorem State.emit_free (s : State) (m : Message) : (s.emit m).free = s.free := rfl

@[simp] theorem State.bumpFree_mode (s : State) : (s.bumpFree).mode = s.mode := rfl
@[simp] theorem State.bumpFree_sws (s : State) : (s.bumpFree).sws = s.sws := rfl
@[simp] theorem State.bumpFree_swr (s : State) : (s.bumpFree).swr = s.swr := rfl
@[simp] theorem State.bumpFree_srs (s : State) : (s.bumpFree).srs = s.srs := rfl
@[simp] theorem State.bumpFree_srr (s : State) : (s.bumpFree).srr = s.srr := rfl
@[simp] theorem State.bumpFree_par (s : State) : (s.bumpFree).par = s.par := rfl
@[simp] theorem State.bumpFree_input (s : State) : (s.bumpFree).input = s.input := rfl
@[simp] theorem State.bumpFree_tx (s : State) : (s.bumpFree).tx = s.tx := rfl
@[simp] theorem State.bumpFree_ret (s : State) : (s.bumpFree).ret = s.ret := rfl
@[simp] theorem State.bumpFree_free (s : State) : (s.bumpFree).free = s.free + 1 := rfl

@[simp] theorem State.setInput_mode (s : State) (l : List Item) : (s.setInput l).mode = s.mode := rfl
@[simp] theorem State.setInput_sws (s : State) (l : List Item) : (s.setInput l).sws = s.sws := rfl
@[simp] theorem State.setInput_swr (s : State) (l : List Item) : (s.setInput l).swr = s.swr := rfl
@[simp] theorem State.setInput_srs (s : State) (l : List Item) : (s.setInput l).srs = s.srs := rfl
@[simp] theorem State.setInput_srr (s : State) (l : List Item) : (s.setInput l).srr = s.srr := rfl
@[simp] theorem State.setInput_par (s : State) (l : List Item) : (s.setInput l).par = s.par := rfl
@[simp] theorem State.setInput_input (s : State) (l : List Item) : (s.setInput l).input = l := rfl
@[simp] theorem State.setInput_tx (s : State) (l : List Item) : (s.setInput l).tx = s.tx := rfl
@[simp] theorem State.setInput_ret (s : State) (l : List Item) : (s.setInput l).ret = s.ret := rfl
@[simp] theorem State.setInput_free (s : State) (l : List Item) : (s.setInput l).free = s.free := rfl

end Sys2Proof.Machine
end

