-- ==== Sys2Proof/Laws/Storage.lean ====
section
/-!
SUPPORT. The storage operations: what a read gives after a write, and that every write keeps the canonical form.
-/

namespace Sys2Proof.Machine

/-! ## Bit arrays -/

theorem readBit_eq_true {l : BitArray} {i : Nat} : readBit l i = true ↔ i ∈ l := by simp [readBit]

theorem mem_setBit {l : BitArray} {i j : Nat} : j ∈ setBit l i ↔ j = i ∨ j ∈ l := by
  induction l with
  | nil => simp [setBit]
  | cons k r ih =>
    simp only [setBit]
    split
    · simp
    · split <;> simp_all
      tauto

/-- After `OUTST[i] <- 1` bit `i` is 1 and every other bit is as before (R10). -/
@[simp] theorem readBit_setBit (l : BitArray) (i j : Nat) :
    readBit (setBit l i) j = (decide (j = i) || readBit l j) := by
  rw [Bool.eq_iff_iff]; simp [readBit, mem_setBit]

/-- After a bit is set to 0, it reads 0 and every other bit is as before (R10). -/
@[simp] theorem readBit_clearBit (l : BitArray) (i j : Nat) :
    readBit (clearBit l i) j = (decide (j ≠ i) && readBit l j) := by
  rw [Bool.eq_iff_iff]; simp [readBit, clearBit, and_comm]

/-- `MemWrite` on a bit array: the bit written reads as written, every other bit as before (R10). -/
theorem readBit_writeBit (l : BitArray) (i j : Nat) (b : Bool) :
    readBit (writeBit l i b) j = if j = i then b else readBit l j := by
  cases b <;> by_cases h : j = i <;> simp [writeBit, h]

theorem setBit_wf {l : BitArray} (h : BitArray.wf l) (i : Nat) : BitArray.wf (setBit l i) := by
  induction l with
  | nil => simp [setBit]
  | cons k r ih =>
    have h := List.pairwise_cons.1 h
    simp only [setBit]
    split
    · rename_i hik
      refine List.pairwise_cons.2 ⟨?_, List.pairwise_cons.2 h⟩
      intro x hx
      rcases List.mem_cons.1 hx with rfl | hx
      · exact hik
      · exact lt_trans hik (h.1 x hx)
    · split
      · exact List.pairwise_cons.2 h
      · refine List.pairwise_cons.2 ⟨fun x hx => ?_, ih h.2⟩
        rcases mem_setBit.1 hx with rfl | hx
        · omega
        · exact h.1 x hx

theorem clearBit_wf {l : BitArray} (h : BitArray.wf l) (i : Nat) : BitArray.wf (clearBit l i) := h.filter _

theorem writeBit_wf {l : BitArray} (h : BitArray.wf l) (i : Nat) (b : Bool) : BitArray.wf (writeBit l i b) := by
  cases b
  · exact clearBit_wf h i
  · exact setBit_wf h i

/-! ## Reassembly buffers -/

theorem fst_mem_storeIfAbsent {l : EntryArray} {i j : Nat} {c : Bytes} :
    j ∈ (storeIfAbsent l i c).map Prod.fst ↔ j = i ∨ j ∈ l.map Prod.fst := by
  induction l with
  | nil => simp [storeIfAbsent]
  | cons x r ih =>
    obtain ⟨k, d⟩ := x
    simp only [storeIfAbsent]
    split
    · simp
    · split
      · simp_all
      · simp only [List.map_cons, List.mem_cons, ih]; tauto

theorem storeIfAbsent_wf {l : EntryArray} (h : EntryArray.wf l) (i : Nat) (c : Bytes) :
    EntryArray.wf (storeIfAbsent l i c) := by
  induction l with
  | nil => exact List.pairwise_singleton _ _
  | cons x r ih =>
    obtain ⟨k, d⟩ := x
    have h' : (∀ y ∈ r.map Prod.fst, k < y) ∧ EntryArray.wf r := List.pairwise_cons.1 h
    simp only [storeIfAbsent]
    split
    · rename_i hik
      refine List.pairwise_cons.2 ⟨fun y hy => ?_, h⟩
      rcases List.mem_cons.1 hy with rfl | hy
      · exact hik
      · exact lt_trans hik (h'.1 y hy)
    · split
      · exact h
      · refine List.pairwise_cons.2 ⟨fun y hy => ?_, ih h'.2⟩
        rcases fst_mem_storeIfAbsent.1 hy with rfl | hy
        · show k < y
          omega
        · exact h'.1 y hy

theorem readEntry_eq_none {l : EntryArray} {i : Nat} : readEntry l i = none ↔ i ∉ l.map Prod.fst := by
  induction l with
  | nil => simp [readEntry]
  | cons x r ih =>
    obtain ⟨k, d⟩ := x
    simp only [readEntry, List.lookup_cons] at ih ⊢
    by_cases h : i = k
    · simp [h]
    · simp only [beq_eq_false_iff_ne.2 h]
      simpa [h] using ih

/-- Store-if-absent (R64): the entry written holds the value if it was `ABSENT` and else its old value; every other entry
is as before. -/
theorem readEntry_storeIfAbsent {l : EntryArray} (h : EntryArray.wf l) (i j : Nat) (c : Bytes) :
    readEntry (storeIfAbsent l i c) j = if j = i then some ((readEntry l i).getD c) else readEntry l j := by
  induction l with
  | nil =>
    by_cases hj : j = i
    · simp [readEntry, storeIfAbsent, hj]
    · simp [readEntry, storeIfAbsent, List.lookup_cons, hj, beq_eq_false_iff_ne.2 hj]
  | cons x r ih =>
    obtain ⟨k, d⟩ := x
    have h' : (∀ y ∈ r.map Prod.fst, k < y) ∧ EntryArray.wf r := List.pairwise_cons.1 h
    have ih := ih h'.2
    simp only [storeIfAbsent]
    split
    · rename_i hik
      have hne : i ∉ ((k, d) :: r).map Prod.fst := by
        intro hm
        rcases List.mem_cons.1 hm with e | hm
        · exact absurd (show i = k from e) (by omega)
        · have := h'.1 i hm; omega
      rw [readEntry_eq_none.2 hne]
      by_cases hj : j = i
      · simp [readEntry, hj]
      · simp [readEntry, List.lookup_cons, hj, beq_eq_false_iff_ne.2 hj]
    · split
      · rename_i hik
        subst hik
        by_cases hj : j = i
        · simp [readEntry, hj]
        · simp [hj]
      · rename_i h1 h2
        simp only [readEntry, List.lookup_cons] at ih ⊢
        have hik : (i == k) = false := beq_eq_false_iff_ne.2 h2
        by_cases hj : j = k
        · subst hj
          have : j ≠ i := fun e => h2 e.symm
          simp [this]
        · simp only [beq_eq_false_iff_ne.2 hj, hik]
          exact ih

/-! ## The canonical form -/

/-- No register write touches an array's form: a `MemWrite` keeps it. -/
theorem writeElement_wf {w : Store} {s : State} (h : Memory.wf s) : Memory.wf (writeElement w s) := by
  obtain ⟨h1, h2, h3, h4, h5⟩ := h
  cases w
  · exact ⟨storeIfAbsent_wf h1 _ _, h2, h3, h4, h5⟩
  · exact ⟨h1, storeIfAbsent_wf h2 _ _, h3, h4, h5⟩
  · exact ⟨h1, h2, writeBit_wf h3 _ _, h4, h5⟩
  · exact ⟨h1, h2, h3, writeBit_wf h4 _ _, h5⟩
  · exact ⟨h1, h2, h3, h4, writeBit_wf h5 _ _⟩

theorem reset_memory_wf : Memory.wf State.reset := by decide

/-! ## The hand-off -/

/-- `concat` is defined exactly where the entries are present (R73). -/
theorem concatFrom_isSome (rb : EntryArray) (n : Nat) :
    (concatFrom rb n).isSome = entriesPresent rb n := by
  induction n with
  | zero => rfl
  | succ n ih =>
    have e : entriesPresent rb (n + 1) = (entriesPresent rb n && (readEntry rb n).isSome) := by
      simp [entriesPresent, List.range_succ, List.all_append]
    rw [e, ← ih]
    simp only [concatFrom]
    cases concatFrom rb n <;> cases readEntry rb n <;> rfl

/-- Where the entries are present, the hand-off uses no free value. -/
theorem concatOr_of_present {rb : EntryArray} {n : Nat} (h : entriesPresent rb n = true) (s : State) :
    ∃ x, concatFrom rb n = some x ∧ concatOr rb n s = (x, s) := by
  rw [← concatFrom_isSome, Option.isSome_iff_exists] at h
  obtain ⟨x, hx⟩ := h
  exact ⟨x, hx, by simp [concatOr, hx]⟩

end Sys2Proof.Machine
end

