-- ==== Sys2Proof/Laws/Ops.lean ====
section
/-!
SUPPORT. One lemma per shared operation that says once everything it can do: sending, filling and advancing the window,
the retry budget, the error entry, `STOP`. Later proofs cite these and unfold none of the operations.
-/

namespace Sys2Proof.Machine

/-- Two emissions in a row. -/
theorem emit_tx (s : State) (m : Message) : s.emit m = { s with tx := s.tx ++ [m] } := rfl

/-! ## Sending -/

/-- `SEND(k)`: either the chunk exists and one message leaves, or the machine stops on an element that does not exist. -/
theorem sendPacket_cases (e : Sender) (k : Nat) (s : State) :
    (∃ c, (senderChunks e s)[k]? = some c ∧
      sendPacket e k s = .ok { s with tx := s.tx ++ [dataMessage (senderN e s) k c] }) ∨
    ((senderChunks e s).length ≤ k ∧ sendPacket e k s = .error (.noSuchElement (senderArray e) k)) := by
  unfold sendPacket
  cases h : (senderChunks e s)[k]? with
  | none => exact .inr ⟨List.getElem?_eq_none_iff.1 h, rfl⟩
  | some c => exact .inl ⟨c, rfl, rfl⟩

/-- `SEND(k)` of a chunk that exists. -/
theorem sendPacket_of_lt (e : Sender) (k : Nat) (s : State) (h : k < (senderChunks e s).length) :
    sendPacket e k s =
      .ok { s with tx := s.tx ++ [dataMessage (senderN e s) k ((senderChunks e s).getD k [])] } := by
  unfold sendPacket
  rw [List.getElem?_eq_getElem h]
  simp [State.emit, List.getD_eq_getElem?_getD, List.getElem?_eq_getElem h]

/-- Sending writes the output alone, and only appends to it. -/
theorem sendPacket_frame {e : Sender} {k : Nat} {s t : State} (h : sendPacket e k s = .ok t) :
    ∃ m, t = { s with tx := s.tx ++ [m] } := by
  rcases sendPacket_cases e k s with ⟨c, -, hc⟩ | ⟨-, hc⟩
  · rw [hc] at h; cases h; exact ⟨_, rfl⟩
  · rw [hc] at h; cases h

/-- Chunks and count of a sender do not depend on the output. -/
@[simp] theorem senderChunks_tx (e : Sender) (s : State) (l : List Message) :
    senderChunks e { s with tx := l } = senderChunks e s := by cases e <;> rfl

@[simp] theorem senderN_tx (e : Sender) (s : State) (l : List Message) :
    senderN e { s with tx := l } = senderN e s := by cases e <;> rfl

/-- `SEND` of several chunks that exist: their messages leave in the order of the list. -/
theorem sendAll_of_lt (e : Sender) (ks : List Nat) (s : State) (h : ∀ k ∈ ks, k < (senderChunks e s).length) :
    sendAll e ks s =
      .ok { s with tx := s.tx ++ ks.map fun k => dataMessage (senderN e s) k ((senderChunks e s).getD k []) } := by
  induction ks generalizing s with
  | nil => simp [sendAll]
  | cons k r ih =>
    simp only [sendAll, sendPacket_of_lt e k s (h k (by simp))]
    rw [ih _ (by simpa using fun k hk => h k (by simp [hk]))]
    simp

/-- Sending several writes the output alone, and only appends to it. -/
theorem sendAll_frame {e : Sender} {ks : List Nat} {s t : State} (h : sendAll e ks s = .ok t) :
    ∃ l, t = { s with tx := s.tx ++ l } := by
  induction ks generalizing s with
  | nil => cases h; exact ⟨[], by simp⟩
  | cons k r ih =>
    simp only [sendAll] at h
    split at h
    · cases h
    · rename_i u hu
      obtain ⟨m, rfl⟩ := sendPacket_frame hu
      obtain ⟨l, rfl⟩ := ih h
      exact ⟨[m] ++ l, by simp⟩

/-! ## The window -/

/-- The outstanding set with `count` indices from `k` on added. -/
def addRange (outst : BitArray) : Nat → Nat → BitArray
  | 0, _ => outst
  | count + 1, k => addRange (setBit outst k) count (k + 1)

theorem readBit_addRange (outst : BitArray) (count k j : Nat) :
    readBit (addRange outst count k) j = (readBit outst j || (decide (k ≤ j) && decide (j < k + count))) := by
  induction count generalizing outst k with
  | zero =>
    have h : (decide (k ≤ j) && decide (j < k + 0)) = false := by simp
    rw [h, Bool.or_false, addRange]
  | succ count ih =>
    rw [addRange, ih, readBit_setBit, Bool.eq_iff_iff]
    simp only [Bool.or_eq_true, Bool.and_eq_true, decide_eq_true_eq]
    constructor
    · rintro ((rfl | h) | ⟨h1, h2⟩)
      · exact .inr ⟨le_refl _, by omega⟩
      · exact .inl h
      · exact .inr ⟨by omega, by omega⟩
    · rintro (h | ⟨h1, h2⟩)
      · exact .inl (.inr h)
      · by_cases e : j = k
        · exact .inl (.inl e)
        · exact .inr ⟨by omega, by omega⟩

theorem addRange_wf {outst : BitArray} (h : BitArray.wf outst) (count k : Nat) :
    BitArray.wf (addRange outst count k) := by
  induction count generalizing outst k with
  | zero => exact h
  | succ count ih => exact ih (setBit_wf h k) (k + 1)

/-- The loop of `WIN_FILL` where the chunks exist. -/
theorem fillLoop_of_lt (count k : Nat) (s : State) (h : k + count ≤ s.srs.chunk.length) :
    fillLoop count k s = .ok { s with
      srs := { s.srs with outst := addRange s.srs.outst count k }
      tx := s.tx ++ (List.range' k count).map fun j => dataMessage s.srs.n j (s.srs.chunk.getD j []) } := by
  induction count generalizing k s with
  | zero => simp [fillLoop, addRange]
  | succ count ih =>
    have hk : k < (senderChunks .srs s).length := by simp only [senderChunks]; omega
    simp only [fillLoop, sendPacket_of_lt .srs k s hk]
    rw [ih _ _ (by simp only [State.setSrs]; omega)]
    simp [State.setSrs, senderN, senderChunks, addRange, List.range'_succ]

/-- The loop of `WIN_FILL` writes the outstanding set and the output alone, whatever the chunks. -/
theorem fillLoop_frame {count k : Nat} {s t : State} (h : fillLoop count k s = .ok t) :
    ∃ l, t = { s with srs := { s.srs with outst := addRange s.srs.outst count k }, tx := s.tx ++ l } := by
  induction count generalizing k s with
  | zero => cases h; exact ⟨[], by simp [addRange]⟩
  | succ count ih =>
    simp only [fillLoop] at h
    split at h
    · cases h
    · rename_i u hu
      obtain ⟨m, rfl⟩ := sendPacket_frame hu
      obtain ⟨l, rfl⟩ := ih h
      exact ⟨[m] ++ l, by simp [State.setSrs, addRange]⟩

/-- `WIN_FILL` where the chunks exist: the packets from `NEXTSEQ` to `WIN_HI - 1` leave, ascending, and are outstanding. -/
theorem winFill_of_le (s : State) (h : winHi s.srs ≤ s.srs.chunk.length ∨ winHi s.srs ≤ s.srs.nextSeq) :
    winFill s = .ok { s with
      srs := { s.srs with
        nextSeq := max s.srs.nextSeq (winHi s.srs)
        outst := addRange s.srs.outst (winHi s.srs - s.srs.nextSeq) s.srs.nextSeq }
      tx := s.tx ++ (List.range' s.srs.nextSeq (winHi s.srs - s.srs.nextSeq)).map fun j =>
        dataMessage s.srs.n j (s.srs.chunk.getD j []) } := by
  unfold winFill
  rcases Nat.lt_or_ge s.srs.nextSeq (winHi s.srs) with hl | hl
  · have hf := fillLoop_of_lt (winHi s.srs - s.srs.nextSeq) s.srs.nextSeq s (by omega)
    simp [hf, hl, State.setSrs, Nat.max_eq_right (Nat.le_of_lt hl)]
  · have e : winHi s.srs - s.srs.nextSeq = 0 := by omega
    simp [e, fillLoop, addRange, Nat.not_lt.2 hl, Nat.max_eq_left hl]

/-- `WIN_FILL` writes `NEXTSEQ`, the outstanding set and the output alone. -/
theorem winFill_frame {s t : State} (h : winFill s = .ok t) :
    ∃ l, t = { s with
      srs := { s.srs with
        nextSeq := max s.srs.nextSeq (winHi s.srs)
        outst := addRange s.srs.outst (winHi s.srs - s.srs.nextSeq) s.srs.nextSeq }
      tx := s.tx ++ l } := by
  unfold winFill at h
  simp only at h
  split at h
  · cases h
  · rename_i u hu
    obtain ⟨l, rfl⟩ := fillLoop_frame hu
    rcases Nat.lt_or_ge s.srs.nextSeq (winHi s.srs) with hl | hl
    · simp only [hl, if_true] at h
      cases h
      exact ⟨l, by simp [State.setSrs, Nat.max_eq_right (Nat.le_of_lt hl)]⟩
    · simp only [Nat.not_lt.2 hl, if_false] at h
      cases h
      exact ⟨l, by simp [Nat.max_eq_left hl]⟩

/-- The loop of `WIN_ADVANCE` stops at the first outstanding index, or after `room` of them. -/
theorem advanceFrom_spec (outst : BitArray) (room base : Nat) :
    base ≤ advanceFrom outst room base ∧ advanceFrom outst room base ≤ base + room ∧
      (∀ j, base ≤ j → j < advanceFrom outst room base → readBit outst j = false) ∧
      (advanceFrom outst room base = base + room ∨ readBit outst (advanceFrom outst room base) = true) := by
  induction room generalizing base with
  | zero => exact ⟨le_refl _, le_refl _, fun j h1 h2 => absurd h2 (Nat.not_lt.2 h1), .inl rfl⟩
  | succ room ih =>
    simp only [advanceFrom]
    split
    · rename_i hb
      exact ⟨le_refl _, by omega, fun j h1 h2 => absurd h2 (Nat.not_lt.2 h1), .inr hb⟩
    · rename_i hb
      obtain ⟨h1, h2, h3, h4⟩ := ih (base + 1)
      refine ⟨by omega, by omega, fun j hj hlt => ?_, by rcases h4 with h | h; exacts [.inl (by omega), .inr h]⟩
      by_cases e : j = base
      · subst e; simpa using hb
      · exact h3 j (by omega) hlt

/-! ## The retry budget, the error entry, `STOP` -/

/-- `RETRY_TAKE` with the rest of its step: the budget is spent and the step ends, or it is charged and the step goes on
(R164). -/
theorem retryThen_cases (e : Sender) (s : State) (go : State → Res) :
    (retrySpent e s = true ∧ retryThen e s go = .ok (raiseError (senderEngine e) .retryExhausted s)) ∨
    (retrySpent e s = false ∧ retryThen e s go = go (setRetry e (retryOf e s + 1) s)) := by
  unfold retryThen
  cases h : retrySpent e s
  · exact .inr ⟨rfl, rfl⟩
  · exact .inl ⟨rfl, rfl⟩

/-- The error entry writes one engine's state and error, and nothing else (R266). -/
theorem raiseError_frame (x : Engine) (err : Err) (s : State) :
    (raiseError x err s).mode = s.mode ∧ (raiseError x err s).par = s.par ∧ (raiseError x err s).input = s.input ∧
      (raiseError x err s).tx = s.tx ∧ (raiseError x err s).ret = s.ret ∧ (raiseError x err s).free = s.free := by
  cases x <;> exact ⟨rfl, rfl, rfl, rfl, rfl, rfl⟩

/-- `STOP` writes one engine's state, and nothing else (R269). -/
theorem stopEngine_frame (x : Engine) (s : State) :
    (stopEngine x s).mode = s.mode ∧ (stopEngine x s).par = s.par ∧ (stopEngine x s).input = s.input ∧
      (stopEngine x s).tx = s.tx ∧ (stopEngine x s).ret = s.ret ∧ (stopEngine x s).free = s.free := by
  cases x <;> exact ⟨rfl, rfl, rfl, rfl, rfl, rfl⟩

/-- An outcome is a next state exactly where the operation gives a state. -/
theorem outcome_eq_next {r : Res} {t : State} : r.outcome = .next t ↔ r = .ok t := by
  cases r <;> simp [Res.outcome]

end Sys2Proof.Machine
end

