-- ==== Sys2Proof/Laws/PerInstr.lean ====
section
/-!
SUPPORT. A family of lemmas about the instructions as syntax, one lemma per constructor of `Instr`.
-/

namespace Sys2Proof.Laws.StoredForm

/-- The encoder presents an instruction in the form its row has (R97, R100): the bytes of the row's own format for a wire
row, the operation itself for any other and for an envelope whose frame is too long for `LEN`
(notes/assumptions/25.md). -/
def Statement (i : Instr) : Prop :=
  match i.rowClass with
  | .wire fmt => (∃ bytes, encode i = .wire fmt bytes) ∨
      ∃ idx last frame, i = .env idx last frame ∧ 2 ^ 32 ≤ frame.length ∧ encode i = .op i
  | .event => encode i = .op i
  | .function => encode i = .op i
  | .message => encode i = .op i

theorem frame (body : Bytes) (etx : Byte) (csum : U16) : Statement (.frame body etx csum) := .inl ⟨_, rfl⟩
theorem env (idx : U16) (last : Byte) (frame : Bytes) : Statement (.env idx last frame) := by
  by_cases h : lenFits frame = true
  · exact .inl ⟨_, if_pos h⟩
  · exact .inr ⟨idx, last, frame, rfl, by simpa [lenFits] using h, if_neg h⟩
theorem hs (n w : I32) : Statement (.hs n w) := .inl ⟨_, rfl⟩
theorem hsack (p : U16) : Statement (.hsack p) := .inl ⟨_, rfl⟩
theorem ack (num : U16) : Statement (.ack num) := .inl ⟨_, rfl⟩
theorem nak (num : U16) : Statement (.nak num) := .inl ⟨_, rfl⟩
theorem ctrlRsvd (kind : Byte) (num : U16) : Statement (.ctrlRsvd kind num) := .inl ⟨_, rfl⟩
theorem stuff (x : Bytes) : Statement (.stuff x) := rfl
theorem unstuff (y : Bytes) : Statement (.unstuff y) := rfl
theorem csum16 (y : Bytes) : Statement (.csum16 y) := rfl
theorem encode (c : Bytes) : Statement (.encode c) := rfl
theorem decode (f : Bytes) : Statement (.decode f) := rfl
theorem seqOf (i : U16) : Statement (.seqOf i) := rfl
theorem seqInc : Statement .seqInc := rfl
theorem islastOf (i n : Nat) : Statement (.islastOf i n) := rfl
theorem winInit (n w : Nat) : Statement (.winInit n w) := rfl
theorem winHi : Statement .winHi := rfl
theorem winFill : Statement .winFill := rfl
theorem winAck (num : U16) : Statement (.winAck num) := rfl
theorem winAdvance : Statement .winAdvance := rfl
theorem winDone : Statement .winDone := rfl
theorem acked (i : Nat) : Statement (.acked i) := rfl
theorem rxMark (idx : U16) (c : Bytes) : Statement (.rxMark idx c) := rfl
theorem rxComplete : Statement .rxComplete := rfl
theorem nakOnce (idx : U16) : Statement (.nakOnce idx) := rfl
theorem idxValid (idx : U16) : Statement (.idxValid idx) := rfl
theorem retryTake (e : Sender) : Statement (.retryTake e) := rfl
theorem memRead (a : ArrayName) (i : Nat) : Statement (.memRead a i) := rfl
theorem memWrite (w : Store) : Statement (.memWrite w) := rfl
theorem concat (r : Receiver) (n : Nat) : Statement (.concat r n) := rfl
theorem serCtrl (kind : Byte) (num : U16) : Statement (.serCtrl kind num) := rfl
theorem parseCtrl (m : Bytes) : Statement (.parseCtrl m) := rfl
theorem serEnv (idx : U16) (last : Bool) (frame : Bytes) : Statement (.serEnv idx last frame) := rfl
theorem parseEnv (m : Bytes) : Statement (.parseEnv m) := rfl
theorem serHs (n w : I32) : Statement (.serHs n w) := rfl
theorem parseHs (m : Bytes) : Statement (.parseHs m) := rfl
theorem send (e : Sender) (i : Nat) : Statement (.send e i) := rfl
theorem fill : Statement .fill := rfl
theorem resendAll : Statement .resendAll := rfl
theorem swsStart (n : I32) (chunks : List Bytes) : Statement (.swsStart n chunks) := rfl
theorem swsSend : Statement .swsSend := rfl
theorem swsAck (num : U16) : Statement (.swsAck num) := rfl
theorem swsNak (num : U16) : Statement (.swsNak num) := rfl
theorem swsTimeout : Statement .swsTimeout := rfl
theorem swsRsvd (kind : Byte) (num : U16) : Statement (.swsRsvd kind num) := rfl
theorem swrStart : Statement .swrStart := rfl
theorem swrDataValidFirst (idx : U16) (last : Bool) (frame : Bytes) : Statement (.swrDataValidFirst idx last frame) := rfl
theorem swrDataValidDup (idx : U16) (last : Bool) (frame : Bytes) : Statement (.swrDataValidDup idx last frame) := rfl
theorem swrDataInvalid (idx : U16) (last : Bool) (frame : Bytes) : Statement (.swrDataInvalid idx last frame) := rfl
theorem swrLast (idx : U16) : Statement (.swrLast idx) := rfl
theorem swrHandoff : Statement .swrHandoff := rfl
theorem srsStart (n w : I32) (chunks : List Bytes) : Statement (.srsStart n w chunks) := rfl
theorem srsHsack (p : U16) : Statement (.srsHsack p) := rfl
theorem srsAck (num : U16) : Statement (.srsAck num) := rfl
theorem srsNak (num : U16) : Statement (.srsNak num) := rfl
theorem srsTimeout : Statement .srsTimeout := rfl
theorem srsRsvd (kind : Byte) (num : U16) : Statement (.srsRsvd kind num) := rfl
theorem srrStart : Statement .srrStart := rfl
theorem srrHs (n w : I32) : Statement (.srrHs n w) := rfl
theorem srrHsMalformed (n w : I32) : Statement (.srrHsMalformed n w) := rfl
theorem srrDataOor (idx : U16) (last : Bool) (frame : Bytes) : Statement (.srrDataOor idx last frame) := rfl
theorem srrDataValidFirst (idx : U16) (last : Bool) (frame : Bytes) : Statement (.srrDataValidFirst idx last frame) := rfl
theorem srrDataValidDup (idx : U16) (last : Bool) (frame : Bytes) : Statement (.srrDataValidDup idx last frame) := rfl
theorem srrDataInvalid (idx : U16) (last : Bool) (frame : Bytes) : Statement (.srrDataInvalid idx last frame) := rfl
theorem reset : Statement .reset := rfl
theorem startCommon (r : StartReq) : Statement (.startCommon r) := rfl
theorem stop : Statement .stop := rfl
theorem transportFail : Statement .transportFail := rfl
theorem timeout : Statement .timeout := rfl
theorem ignore : Statement .ignore := rfl
theorem txHs (n w : I32) : Statement (.txHs n w) := rfl
theorem txData (idx : U16) (last : Bool) (frame : Bytes) : Statement (.txData idx last frame) := rfl
theorem txCtrl (kind : Byte) (num : U16) : Statement (.txCtrl kind num) := rfl
theorem sink (bytes : Bytes) : Statement (.sink bytes) := rfl

end Sys2Proof.Laws.StoredForm
end

