-- ==== Sys2Proof/Laws/Wire.lean ====
section
/-!
SUPPORT. The multi-byte fields: assembling what was laid out gives the value back (R9, R61, R86).
-/

namespace Sys2Proof.Machine

@[simp] theorem be16_length (v : U16) : (be16 v).length = 2 := rfl

@[simp] theorem be32_length (v : I32) : (be32 v).length = 4 := rfl

/-- `from_be16(be16(v)) = v` (R9). -/
@[simp] theorem fromBe16_be16 (v : U16) : fromBe16 (v.extractLsb' 8 8) (v.extractLsb' 0 8) = v := by
  apply BitVec.eq_of_toNat_eq
  simp only [fromBe16, BitVec.toNat_ofNat, BitVec.extractLsb'_toNat, Nat.shiftRight_eq_div_pow]
  have := v.isLt
  omega

/-- `from_be32(be32(v)) = v` (R9). -/
@[simp] theorem fromBe32_be32 (v : I32) :
    fromBe32 (v.extractLsb' 24 8) (v.extractLsb' 16 8) (v.extractLsb' 8 8) (v.extractLsb' 0 8) = v := by
  apply BitVec.eq_of_toNat_eq
  simp only [fromBe32, BitVec.toNat_ofNat, BitVec.extractLsb'_toNat, Nat.shiftRight_eq_div_pow]
  have := v.isLt
  omega

/-- `be16(from_be16(x)) = x` on two bytes (R9). -/
@[simp] theorem be16_fromBe16 (hi lo : Byte) : be16 (fromBe16 hi lo) = [hi, lo] := by
  have h1 : (fromBe16 hi lo).extractLsb' 8 8 = hi := by
    apply BitVec.eq_of_toNat_eq
    simp only [fromBe16, BitVec.toNat_ofNat, BitVec.extractLsb'_toNat, Nat.shiftRight_eq_div_pow]
    have := hi.isLt
    have := lo.isLt
    omega
  have h0 : (fromBe16 hi lo).extractLsb' 0 8 = lo := by
    apply BitVec.eq_of_toNat_eq
    simp only [fromBe16, BitVec.toNat_ofNat, BitVec.extractLsb'_toNat, Nat.shiftRight_eq_div_pow]
    have := hi.isLt
    have := lo.isLt
    omega
  simp [be16, h1, h0]

/-- `be32(from_be32(x)) = x` on four bytes (R9). -/
@[simp] theorem be32_fromBe32 (b3 b2 b1 b0 : Byte) : be32 (fromBe32 b3 b2 b1 b0) = [b3, b2, b1, b0] := by
  have l3 := b3.isLt
  have l2 := b2.isLt
  have l1 := b1.isLt
  have l0 := b0.isLt
  have e (k : Nat) : ((fromBe32 b3 b2 b1 b0).extractLsb' k 8).toNat =
      (((b3.toNat * 256 + b2.toNat) * 256 + b1.toNat) * 256 + b0.toNat) / 2 ^ k % 256 := by
    simp only [fromBe32, BitVec.toNat_ofNat, BitVec.extractLsb'_toNat, Nat.shiftRight_eq_div_pow]
    congr 2
    omega
  have h3 : (fromBe32 b3 b2 b1 b0).extractLsb' 24 8 = b3 := BitVec.eq_of_toNat_eq (by rw [e]; omega)
  have h2 : (fromBe32 b3 b2 b1 b0).extractLsb' 16 8 = b2 := BitVec.eq_of_toNat_eq (by rw [e]; omega)
  have h1 : (fromBe32 b3 b2 b1 b0).extractLsb' 8 8 = b1 := BitVec.eq_of_toNat_eq (by rw [e]; omega)
  have h0 : (fromBe32 b3 b2 b1 b0).extractLsb' 0 8 = b0 := BitVec.eq_of_toNat_eq (by rw [e]; omega)
  simp [be32, h3, h2, h1, h0]

/-- `LEN` holds the length of every frame shorter than 2^32 bytes (R90). -/
theorem lenField_toNat {frame : Bytes} (h : lenFits frame = true) : (lenField frame).toNat = frame.length := by
  simp only [lenField, h, if_true, BitVec.toNat_ofNat]
  exact Nat.mod_eq_of_lt (of_decide_eq_true h)

/-- What `SER_CTRL` lays out is what `PARSE_CTRL` reads, the rest of the stream left (R242). -/
theorem readCtrl_serCtrl (kind : Byte) (num : U16) (rest : Bytes) :
    readCtrl (serCtrl kind num ++ rest) = some (kind, num, rest) := by
  simp [serCtrl, be16, readCtrl]

/-- What `SER_HS` lays out is what `PARSE_HS` reads, the rest of the stream left (R244). -/
theorem readHs_serHs (n w : I32) (rest : Bytes) : readHs (serHs n w ++ rest) = some (n, w, rest) := by
  simp [serHs, be32, readHs]

/-- An envelope around a frame that `LEN` can count is read back, whatever its `LAST` byte (R82, R243). -/
theorem readEnv_envelope (idx : U16) (last : Byte) {frame : Bytes} (rest : Bytes) (h : lenFits frame = true) :
    readEnv (be32 (lenField frame) ++ be16 idx ++ [last] ++ frame ++ rest) = some (idx, last, frame, rest) := by
  simp [be32, be16, readEnv, lenField_toNat h]

end Sys2Proof.Machine
end

