-- ==== Sys2Proof/Tests/Slice0.lean ====
section
/-!
SUPPORT. Tests: each check of WellFormed refuses an ill-formed term; words written out from the layouts of
spec/30_encoding.md decode to their rows; examples worked in the rules of spec/; the words of the opcode table run as the
first instruction after reset; and for every statement with hypotheses a concrete state and operands that meet them.
-/

namespace Sys2Proof.Tests

open Sys2Proof Sys2Proof.Machine

/-- An item reads as an operation. -/
def readsAs (it : Item) (i : Instr) : Bool :=
  match decode none it with
  | .ok j => decide (j = i)
  | .error _ => false

/-- The decoder refuses an item for a reason. -/
def refusedFor (it : Item) (why : Reject) : Bool :=
  match decode none it with
  | .ok _ => false
  | .error x => decide (x = why)

/-- The next state of an operation, `reset` where there is none. -/
def after (i : Instr) (s : State) : State :=
  match exec i s with
  | .next t => t
  | .fault _ => State.reset
  | .refused _ => State.reset

/-! ## Small states -/

/-- A Stop-and-Wait sender that waits for the first of two acknowledgements. -/
def sws : State :=
  { State.reset with
    mode := .swTx
    sws := { st := .awaitingAck, n := 2, i := 0, currSeq := 0, retry := 0, err := .none, chunk := [[0x41], [0x10]] } }

/-- The same with the last packet under way and the retry budget spent. -/
def swsLast : State :=
  { sws with
    sws := { sws.sws with i := 1, currSeq := 1, retry := 1 }, par := { maxChunk := none, retryLimit := some 1 } }

/-- A Stop-and-Wait receiver that holds entry 0. -/
def swr : State :=
  { State.reset with
    mode := .swRx
    swr := { st := .receiving, lastIdx := none, rxStat := .ok, err := .none, rb := [(0, [0x41])] } }

/-- A Selective-Repeat sender that waits for the handshake reply. -/
def srsHs : State :=
  { State.reset with
    mode := .srTx
    srs := { st := .awaitHsAck, n := 3, w := 2, winBase := 0, nextSeq := 0, retry := 0, err := .none, outst := [],
             chunk := [[0x41], [], [0x10]] } }

/-- A Selective-Repeat sender with packets 0 and 1 outstanding. -/
def srs : State :=
  { srsHs with srs := { srsHs.srs with st := .awaitReply, nextSeq := 2, outst := [0, 1] } }

/-- The same with the retry budget spent. -/
def srsSpent : State := { srs with par := { maxChunk := none, retryLimit := some 0 } }

/-- A Selective-Repeat receiver before the handshake. -/
def srrHs : State := { State.reset with mode := .srRx, srr := { Srr.reset with st := .awaitHs } }

/-- A Selective-Repeat receiver with packet 0 of two stored and a `NAK` sent for packet 1. -/
def srr : State :=
  { State.reset with
    mode := .srRx
    srr := { Srr.reset with
      st := .receiving, n := 2, w := 1, rcount := 1, flags := [0], nakSent := [1], rb := [(0, [0x41])] } }

/-- A valid frame: the chunk `41` (R124). -/
def frameA : Bytes := [0x16, 0x16, 0x02, 0x41, 0x03, 0xBE, 0xFF]

/-- The same frame with its body byte changed. -/
def frameBad : Bytes := [0x16, 0x16, 0x02, 0x42, 0x03, 0xBE, 0xFF]

/-! ## WellFormed refuses -/

theorem test_wf_too_few_chunks : (Instr.swsStart 2 [[1]]).wellFormed none = false := by decide
theorem test_wf_chunks_of_negative_count : (Instr.srsStart (-1) 1 [[1]]).wellFormed none = false := by decide
theorem test_wf_start_chunk_too_long : (Instr.startCommon (.swTx 1 [[1, 2]])).wellFormed (some 1) = false := by decide
theorem test_wf_start_sr_count : (Instr.startCommon (.srTx 1 1 [])).wellFormed none = false := by decide
theorem test_wf_reserved_kind_ack : (Instr.ctrlRsvd 0x06 0).wellFormed none = false := by decide
theorem test_wf_reserved_kind_nak : (Instr.ctrlRsvd 0x21 0).wellFormed none = false := by decide
theorem test_wf_win_init_n : (Instr.winInit 65536 1).wellFormed none = true ∧
    (Instr.winInit 65537 1).wellFormed none = false := by decide
theorem test_wf_win_init_w : (Instr.winInit 1 (2 ^ 31 - 1)).wellFormed none = true ∧
    (Instr.winInit 1 (2 ^ 31)).wellFormed none = false := by decide

/-! ## Decoding words written out from spec/30_encoding.md -/

/-- R81, R124: `16 16 02 48 45 4C 4C 03 6B 6E`. -/
theorem test_decode_frame :
    readsAs (.wire .frame [0x16, 0x16, 0x02, 0x48, 0x45, 0x4C, 0x4C, 0x03, 0x6B, 0x6E])
      (.frame [0x48, 0x45, 0x4C, 0x4C] 0x03 0x6B6E) = true := by decide
/-- R82, R243: `00 00 00 02 01 00 01 16 10`: LEN 2, IDX 256, LAST 1. -/
theorem test_decode_env :
    readsAs (.wire .env [0x00, 0x00, 0x00, 0x02, 0x01, 0x00, 0x01, 0x16, 0x10]) (.env 256 0x01 [0x16, 0x10]) = true := by
  decide
/-- R83, R244: `FF FF FF FF 00 00 00 01` is (-1, 1). -/
theorem test_decode_hs :
    readsAs (.wire .hs [0xFF, 0xFF, 0xFF, 0xFF, 0x00, 0x00, 0x00, 0x01]) (.hs (-1) 1) = true := by decide
/-- R84: `06 00 00` in the handshake phase. -/
theorem test_decode_hsack : readsAs (.wire .hsr [0x06, 0x00, 0x00]) (.hsack 0) = true := by decide
/-- R85, R242: `06 00 2C` is `ACK(44)`. -/
theorem test_decode_ack : readsAs (.wire .ctrl [0x06, 0x00, 0x2C]) (.ack 44) = true := by decide
/-- R85, R242: `21 01 2C` is `NAK(300)`. -/
theorem test_decode_nak : readsAs (.wire .ctrl [0x21, 0x01, 0x2C]) (.nak 300) = true := by decide
/-- R91: `15 12 34` has a reserved kind (0x15 is not `NAK`: remark G1). -/
theorem test_decode_reserved : readsAs (.wire .ctrl [0x15, 0x12, 0x34]) (.ctrlRsvd 0x15 0x1234) = true := by decide
theorem test_refuse_short_ctrl : refusedFor (.wire .ctrl [0x06, 0x00]) .wrongLength = true := by decide
theorem test_refuse_long_hs :
    refusedFor (.wire .hs [0x00, 0x00, 0x00, 0x01, 0x00, 0x00, 0x00, 0x01, 0x00]) .wrongLength = true := by decide
/-- R92: a wrong header and five bytes are structural failures of DECODE, not of the decoder. -/
theorem test_bare_frame_failures :
    (match decode none (.wire .frame [0x16, 0x02, 0x02, 0x03, 0xFF, 0xFF]) with
      | .ok i => (after i State.reset).ret
      | .error _ => .nothing) = .decoded [] false .badHeader ∧
    (match decode none (.wire .frame [0x16, 0x16, 0x02, 0x03, 0xFF]) with
      | .ok i => (after i State.reset).ret
      | .error _ => .nothing) = .decoded [] false .tooShort := by decide
/-- R93, R245: in the handshake phase a `NAK` and a reserved kind are read as what they are. -/
theorem test_decode_reply_kinds : readsAs (.wire .hsr [0x21, 0x00, 0x00]) (.nak 0) = true ∧
    readsAs (.wire .hsr [0x15, 0x00, 0x00]) (.ctrlRsvd 0x15 0) = true := by decide
/-- R240: a typed message stands for itself. -/
theorem test_decode_typed_messages :
    ([.frame [1] 3 1, .env 1 1 [1], .hs 1 1, .hsack 1, .ack 1, .nak 1, .ctrlRsvd 0x15 1] : List Instr).all
      (fun i => readsAs (.op i) i) = true := by decide
theorem test_refuse_ill_formed : refusedFor (.op (.swsStart 2 [])) .illFormed = true := by decide

/-- The operations with no binary code stand for themselves (R97): one term for each constructor. -/
theorem test_decode_operations :
    ([.stuff [1], .unstuff [1], .csum16 [1], .encode [1], .decode [1], .seqOf 1, .seqInc, .islastOf 1 2, .winInit 1 1,
      .winHi, .winFill, .winAck 1, .winAdvance, .winDone, .acked 1, .rxMark 1 [1], .rxComplete, .nakOnce 1, .idxValid 1,
      .retryTake .srs, .memRead .flags 1, .memWrite (.outst 1 true), .concat .srr 1, .serCtrl 6 1, .parseCtrl [6, 0, 1],
      .serEnv 1 true [1], .parseEnv [1], .serHs 1 1, .parseHs [0, 0, 0, 1, 0, 0, 0, 1], .send .sws 1, .fill,
      .resendAll] : List Instr).all (fun i => readsAs (.op i) i) = true := by decide
theorem test_decode_events :
    ([.swsStart 1 [[1]], .swsSend, .swsAck 1, .swsNak 1, .swsTimeout, .swsRsvd 1 1, .swrStart,
      .swrDataValidFirst 1 true [1], .swrDataValidDup 1 true [1], .swrDataInvalid 1 true [1], .swrLast 1, .swrHandoff,
      .srsStart 1 1 [[1]], .srsHsack 1, .srsAck 1, .srsNak 1, .srsTimeout, .srsRsvd 1 1, .srrStart, .srrHs 1 1,
      .srrHsMalformed 0 1, .srrDataOor 1 true [1], .srrDataValidFirst 1 true [1], .srrDataValidDup 1 true [1],
      .srrDataInvalid 1 true [1], .reset, .startCommon .swRx, .stop, .transportFail, .timeout, .ignore, .txHs 1 1,
      .txData 1 true [1], .txCtrl 6 1, .sink [1]] : List Instr).all (fun i => readsAs (.op i) i) = true := by decide

/-! ## Words of the opcode table as the first instruction after reset -/

theorem test_table_ack : decodeTableWord 24 0x06002C = some (.ack 44) := by decide
theorem test_table_env : decodeTableWord 56 0x00000001000700 = some (.env 7 0 [0]) := by decide
theorem test_fetch_nak : step (State.reset.withFetchWord 24 0x21012C) = exec (.nak 300) State.reset := by rfl
theorem test_fetch_hs :
    step (State.reset.withFetchWord 64 0x0000000A00000004) = exec (.hs 10 4) State.reset := by rfl
/-- The same word is the handshake reply where that is awaited (R84). -/
theorem test_fetch_hsack : step (srsHs.withFetchWord 24 0x060000) = exec (.hsack 0) srsHs := by rfl
/-- R93, R202, R207: there a `NAK` and a reserved kind are ignored. -/
theorem test_fetch_ignored_replies : step (srsHs.withFetchWord 24 0x210000) = .next srsHs ∧
    step (srsHs.withFetchWord 24 0x150000) = .next srsHs := ⟨rfl, rfl⟩

/-! ## Examples worked in the rules -/

/-- R121. -/
theorem test_stuff : stuff [0x16, 0x02, 0x03, 0x10] = [0x10, 0x16, 0x10, 0x02, 0x10, 0x03, 0x10, 0x10] := by decide
/-- R122: `[10 10 10] -> [10]`, `[10 41] -> [41]`, `[16 41] -> [16 41]`. -/
theorem test_unstuff : unstuff [0x10, 0x10, 0x10] = [0x10] ∧ unstuff [0x10, 0x41] = [0x41] ∧
    unstuff [0x16, 0x41] = [0x16, 0x41] := by decide
/-- R123: `HELL`, `RLD`. -/
theorem test_csum : csum16 [0x48, 0x45, 0x4C, 0x4C] = 0x6B6E ∧ csum16 [0x52, 0x4C, 0x44] = 0x69B3 := by decide
/-- R123: the end-around carry; the empty body; all ones. -/
theorem test_csum_carry : csum16 [0xFF, 0xFF, 0x00, 0x01] = 0xFFFE ∧ csum16 [] = 0xFFFF ∧ csum16 [0xFF, 0xFF] = 0 := by
  decide
/-- R124. -/
theorem test_encode : encodeFrame [0x48, 0x45, 0x4C, 0x4C] = [0x16, 0x16, 0x02, 0x48, 0x45, 0x4C, 0x4C, 0x03, 0x6B, 0x6E] ∧
    encodeFrame [0x10] = [0x16, 0x16, 0x02, 0x10, 0x10, 0x03, 0xEF, 0xEF] := by decide
/-- R125: a checksum failure returns the unstuffed body. -/
theorem test_decode_bad_checksum :
    decodeFrame none [0x16, 0x16, 0x02, 0x48, 0x45, 0x4C, 0x4D, 0x03, 0x6B, 0x6E] =
      { chunk := [0x48, 0x45, 0x4C, 0x4D], valid := false, status := .badChecksum } := by decide
/-- R125: the shortest frame is the empty chunk. -/
theorem test_decode_empty :
    decodeFrame none [0x16, 0x16, 0x02, 0x03, 0xFF, 0xFF] = { chunk := [], valid := true, status := .ok } := by decide
/-- R150: SEQ_OF of 255, 256 and 299. -/
theorem test_seq_of : seqOf 255 = 255 ∧ seqOf 256 = 0 ∧ seqOf 299 = 43 := by decide
/-- R153: N = 10, W = 4, WINBASE = 3 gives 7. -/
theorem test_win_hi : winHi { Srs.reset with n := 10, w := 4, winBase := 3 } = 7 := by decide
/-- R155: OUTST = {3,5,6}, WIN_ACK(5) leaves {3,6}. -/
theorem test_win_ack :
    (winAck 5 { srs with srs := { srs.srs with n := 10, outst := [3, 5, 6] } }).srs.outst = [3, 6] := by decide
/-- R156: WINBASE = 3, NEXTSEQ = 7, OUTST = {} gives 7. -/
theorem test_win_advance :
    (winAdvance { srs with srs := { srs.srs with n := 10, winBase := 3, nextSeq := 7, outst := [] } }).srs.winBase = 7 := by
  decide
/-- R242, R244. -/
theorem test_serialise : serCtrl 0x21 300 = [0x21, 0x01, 0x2C] ∧
    serHs 300 8 = [0x00, 0x00, 0x01, 0x2C, 0x00, 0x00, 0x00, 0x08] := by decide
/-- R243. -/
theorem test_ser_env : serEnv 2 true [0x16, 0x16, 0x02, 0x52, 0x4C, 0x44, 0x03, 0x69, 0xB3] =
    [0x00, 0x00, 0x00, 0x09, 0x00, 0x02, 0x01, 0x16, 0x16, 0x02, 0x52, 0x4C, 0x44, 0x03, 0x69, 0xB3] := by decide
/-- R171: the first packet of `HELL`, `O WO`, `RLD`. -/
theorem test_sws_start :
    (after (.swsStart 3 [[0x48, 0x45, 0x4C, 0x4C], [0x4F, 0x20, 0x57, 0x4F], [0x52, 0x4C, 0x44]]) State.reset).tx =
      [.data 0 false [0x16, 0x16, 0x02, 0x48, 0x45, 0x4C, 0x4C, 0x03, 0x6B, 0x6E]] := by decide
/-- R186: the acknowledgement of index 255 carries 0, of index 65535 too. -/
theorem test_swr_ack_number : swrAckNum 255 = 0 ∧ swrAckNum 65535 = 0 ∧ swrAckNum 256 = 1 := by decide
/-- R184: one bit of `O WO` flipped. -/
theorem test_swr_invalid :
    (after (.env 1 0 [0x16, 0x16, 0x02, 0x4E, 0x20, 0x57, 0x4F, 0x03, 0x59, 0x90]) swr).tx = [.ctrl 0x21 1] ∧
      (after (.env 1 0 [0x16, 0x16, 0x02, 0x4E, 0x20, 0x57, 0x4F, 0x03, 0x59, 0x90]) swr).swr.rxStat = .badChecksum := by
  decide
/-- R203: N = 10, W = 4, WINBASE = 3, NEXTSEQ = 7, OUTST = {3}, ACK(3). -/
theorem test_srs_ack :
    (after (.srsAck 3) { srs with srs := { srs.srs with
      n := 10, w := 4, winBase := 3, nextSeq := 7, outst := [3], chunk := List.replicate 10 [] } }).srs.outst =
      [7, 8, 9] := by decide
/-- R217: the reply to `RX_HS(10, 4)` is `06 00 00`. -/
theorem test_srr_hs : ((after (.srrHs 10 4) srrHs).tx.filterMap wireBytes) = [[0x06, 0x00, 0x00]] := by decide
/-- R219: `"89"` at index 4. -/
theorem test_srr_first :
    (after (.srrDataValidFirst 4 false [0x16, 0x16, 0x02, 0x38, 0x39, 0x03, 0xC7, 0xC6])
      { srr with srr := { srr.srr with n := 10 } }).tx = [.ctrl 0x06 4] := by decide
/-- R221: the second `NAK` for index 1 is suppressed. -/
theorem test_srr_nak_suppressed : (after (.srrDataInvalid 1 true frameBad) srr).tx = [] := by decide

/-- R261, R262: the host reads BAD_CHECKSUM as 4 and TransportFailure as 1. -/
theorem test_host_codes : hostRead .srrRxStat (after (.srrDataInvalid 1 true frameBad) srr) = .code 4 ∧
    hostRead .swrErr (after .transportFail swr) = .code 1 := by decide

/-- R252: the reassembly buffers are readable in place; R30: an index at the length names no element. -/
theorem test_host_elements : hostRead (.element .srrRb 0) srr = .element (.entry (some [0x41])) ∧
    hostRead (.element .swrRb 65535) swr = .element (.entry none) ∧ hostRead (.element .srrRb 2) srr = .noElement := by
  decide

/-- R244, R245: a handshake is the first eight bytes of its stream. -/
theorem test_parse_stream :
    (after (.parseHs [0, 0, 0, 1, 0, 0, 0, 2, 0xAA]) State.reset).ret = .event (.rxHs 1 2) [0xAA] ∧
      (after (.parseCtrl [0x06, 0x00]) State.reset).ret = .incomplete := by decide

/-! ## The hypotheses of the statements are met -/

theorem test_inv_sws : Inv sws := ⟨by decide, by decide, by decide, by decide, by decide, by decide⟩
theorem test_inv_swr : Inv swr := ⟨by decide, by decide, by decide, by decide, by decide, by decide⟩
theorem test_inv_srs : Inv srs := ⟨by decide, by decide, by decide, by decide, by decide, by decide⟩
theorem test_inv_srr : Inv srr := ⟨by decide, by decide, by decide, by decide, by decide⟩

/-- A state with one more item to consume. -/
def given (s : State) (it : Item) : State := { s with input := [it] }

theorem test_inv_given_srs : Inv (given srs (.wire .ctrl [0x06, 0x00, 0x00])) :=
  ⟨by decide, by decide, by decide, by decide, by decide, by decide⟩
theorem test_inv_given_swr : Inv (given swr (.op (.swrLast 0))) :=
  ⟨by decide, by decide, by decide, by decide, by decide, by decide⟩
theorem test_inv_given_reset : Inv (given srs (.op .reset)) :=
  ⟨by decide, by decide, by decide, by decide, by decide⟩

theorem test_witness_EncodeThenDecode :
    (Instr.env 65535 0xFF [0x16]).wellFormed (some 1) = true ∧ (Instr.encode [0x10]).wellFormed (some 1) = true ∧
      (Instr.swsStart (-1) []).wellFormed (some 1) = true := by decide
theorem test_witness_DecodeThenEncode :
    decode none (.wire .env [0x00, 0x00, 0x00, 0x01, 0x00, 0x07, 0x02, 0x16]) = .ok (.env 7 0x02 [0x16]) ∧
      decode none (.wire .hsr [0x21, 0x00, 0x01]) = .ok (.nak 1) ∧
      decode none (.wire .frame [0x16, 0x16, 0x03]) = .ok (.decode [0x16, 0x16, 0x03]) ∧
      decode none (.op .stop) = .ok .stop := ⟨rfl, rfl, rfl, rfl⟩
theorem test_witness_ResetStateIsGood : ParInv { maxChunk := some 1, retryLimit := some 0 } ∧
    ParInv { maxChunk := none, retryLimit := none } := by decide
theorem test_witness_StepRunsTheDecoded :
    (given srs (.wire .ctrl [0x06, 0x00, 0x00])).input = [.wire .ctrl [0x06, 0x00, 0x00]] ∧
      decode srs.par.maxChunk (.wire .ctrl [0x06, 0x00, 0x00]) = .ok (.ack 0) ∧
      decode srs.par.maxChunk (.wire .ctrl []) = .error .wrongLength ∧ srs.input = [] := ⟨rfl, rfl, rfl, rfl⟩
theorem test_witness_EventStepKeepsInvariants :
    Inv (given srs (.wire .ctrl [0x06, 0x00, 0x00])) ∧ isEventRow (.ack 0) = true ∧
      (∃ t, step (given srs (.wire .ctrl [0x06, 0x00, 0x00])) = .next t ∧ t.srs.winBase = 1 ∧ t.srs.outst = [1, 2]) ∧
      Instr.ack 0 ≠ .reset ∧ readEntry swr.swr.rb 0 = some [0x41] :=
  ⟨test_inv_given_srs, by decide, ⟨_, rfl, by decide, by decide⟩, by decide, by decide⟩
theorem test_witness_EventStepAlwaysCompletes :
    Inv (given srs (.wire .ctrl [0x06, 0x00, 0x00])) ∧
      decode srs.par.maxChunk (.wire .ctrl [0x06, 0x00, 0x00]) = .ok (.ack 0) ∧ isEventRow (.ack 0) = true :=
  ⟨test_inv_given_srs, rfl, by decide⟩
theorem test_witness_EveryStepKeepsMemoryForm :
    Memory.wf (given srr (.op (.memWrite (.srrRb 1 [0x42])))) ∧
      ∃ t, step (given srr (.op (.memWrite (.srrRb 1 [0x42])))) = .next t ∧ t.srr.rb = [(0, [0x41]), (1, [0x42])] :=
  ⟨by decide, _, rfl, by decide⟩
theorem test_witness_EveryStepConsumesOneAndOnlyAppends :
    ∃ t, step (given srs (.op .resendAll)) = .next t ∧ t.tx.length = 2 := ⟨_, rfl, by decide⟩
theorem test_witness_OnlyResetAndStartsWriteRole :
    (∃ t, exec (.swsAck 0) sws = .next t) ∧ Instr.swsAck 0 ≠ .reset ∧ sws.mode ≠ .none ∧
      (∃ t, exec .swrStart State.reset = .next t ∧ t.mode ≠ .none) ∧ State.reset.mode = .none ∧
      (∃ t, exec .seqInc State.reset = .next t ∧ t.mode = .none) :=
  ⟨⟨_, rfl⟩, by decide, by decide, ⟨_, rfl, by decide⟩, rfl, ⟨_, rfl, rfl⟩⟩
theorem test_witness_PeerTrafficIsConfined :
    (Instr.hs 2 1).isWire = true ∧ (∃ t, exec (.hs 2 1) srrHs = .next t ∧ t.srr.n = 2) ∧ srr.srr.st ≠ .awaitHs ∧
      srrHs.mode ≠ .swTx ∧ srrHs.mode ≠ .swRx ∧ srrHs.mode ≠ .srTx ∧ sws.mode ≠ .srRx :=
  ⟨by decide, ⟨_, rfl, by decide⟩, by decide, by decide, by decide, by decide, by decide⟩
theorem test_witness_EndedSessionIsFrozen :
    RoleInv (after .stop sws) ∧ ended (after .stop sws) ∧ isEventRow (.ack 0) = true ∧ Instr.ack 0 ≠ .reset ∧
      ∀ body etx csum, Instr.ack 0 ≠ .frame body etx csum :=
  ⟨by decide, by decide, by decide, by decide, by intros; simp⟩
theorem test_witness_WindowNeverMovesBack :
    Inv (given srs (.wire .ctrl [0x06, 0x00, 0x00])) ∧ isEventRow (.ack 0) = true ∧ Instr.ack 0 ≠ .reset ∧
      ∃ t, step (given srs (.wire .ctrl [0x06, 0x00, 0x00])) = .next t ∧ readBit t.srs.outst 1 = true :=
  ⟨test_inv_given_srs, by decide, by decide, _, rfl, by decide⟩
theorem test_witness_StateChangesFollowTheTable :
    Inv (given swr (.op (.swrLast 0))) ∧ isEventRow (.swrLast 0) = true ∧ Instr.swrLast 0 ≠ .reset ∧
      (∃ t, step (given swr (.op (.swrLast 0))) = .next t ∧ t.swr.st = .done) ∧
      Inv (given srs (.op .reset)) ∧ (∃ t, step (given srs (.op .reset)) = .next t ∧ t.srs.st = .idle) :=
  ⟨test_inv_given_swr, by decide, by decide, ⟨_, rfl, by decide⟩, test_inv_given_reset, ⟨_, rfl, by decide⟩⟩
theorem test_witness_EverySentFrameIsItsChunk :
    Inv (given srs (.wire .ctrl [0x06, 0x00, 0x00])) ∧
      (∃ t, step (given srs (.wire .ctrl [0x06, 0x00, 0x00])) = .next t ∧ t.mode = .srTx ∧
        Message.data 2 true (encodeFrame [0x10]) ∈ t.tx.drop srs.tx.length) ∧
      Inv (given swr (.op (.swrLast 0))) ∧
      (∃ t, step (given swr (.op (.swrLast 0))) = .next t ∧ t.mode = .swRx ∧
        Message.sink [0x41] ∈ t.tx.drop swr.tx.length) ∧
      Inv (given sws (.op .timeout)) ∧
      (∃ t, step (given sws (.op .timeout)) = .next t ∧ t.mode = .swTx ∧ t.tx.drop sws.tx.length ≠ []) ∧
      Inv (given State.reset (.op (.srsStart 1 1 [[0x41]]))) ∧
      (∃ t, step (given State.reset (.op (.srsStart 1 1 [[0x41]]))) = .next t ∧ t.mode = .srTx ∧
        Message.hs 1 1 ∈ t.tx.drop State.reset.tx.length) :=
  ⟨test_inv_given_srs, ⟨_, rfl, by decide, by decide⟩, test_inv_given_swr, ⟨_, rfl, by decide, by decide⟩,
    ⟨by decide, by decide, by decide, by decide, by decide, by decide⟩, ⟨_, rfl, by decide, by decide⟩,
    ⟨by decide, by decide, by decide, by decide, by decide, by decide⟩, ⟨_, rfl, by decide, by decide⟩⟩
theorem test_witness_SinkIsTheWholeBuffer :
    Inv (given swr (.op (.swrLast 0))) ∧ isEventRow (.swrLast 0) = true ∧
      ∃ t, step (given swr (.op (.swrLast 0))) = .next t ∧ Message.sink [0x41] ∈ t.tx.drop swr.tx.length :=
  ⟨test_inv_given_swr, by decide, _, rfl, by decide⟩
theorem test_witness_UnstuffRemovesEscapes : (0x16 : Byte) ≠ 0x10#8 := by decide
theorem test_witness_DecodeOfEncode :
    ∀ k ∈ ({ sws with par := { maxChunk := some 1, retryLimit := none } } : State).par.maxChunk,
      ([0x10] : Bytes).length ≤ k := by decide
/-- Each clause at its boundary: five and six bytes, `MAX_FRAME` and one more. -/
theorem test_witness_DecodeReportsTheFirstFailure :
    ([0, 0, 0, 0, 0] : Bytes).length < 6 ∧
      (6 ≤ ([0, 0, 0, 0, 0, 0, 0, 0, 0] : Bytes).length ∧
        ∃ k ∈ some 1, 6 + 2 * k < ([0, 0, 0, 0, 0, 0, 0, 0, 0] : Bytes).length) ∧
      (6 ≤ ([0x16, 0x16, 0x03, 0x03, 0, 0] : Bytes).length ∧
        (∀ k ∈ some 1, ([0x16, 0x16, 0x03, 0x03, 0, 0] : Bytes).length ≤ 6 + 2 * k) ∧
        ([0x16, 0x16, 0x03, 0x03, 0, 0] : Bytes).take 3 ≠ [0x16, 0x16, 0x02]) ∧
      ((∀ k ∈ some 1, ([0x10, 0x10] : Bytes).length ≤ 2 * k) ∧ (0x02 : Byte) ≠ 0x03#8) :=
  ⟨by decide, ⟨by decide, 1, rfl, by decide⟩, by decide, by decide⟩
/-- The header's first and last byte, the body, the end marker, the checksum's first and last byte. -/
theorem test_witness_EverySingleByteChangeIsDetected :
    (∀ m ∈ some 1, ([0x41] : Bytes).length ≤ m) ∧ (encodeFrame [0x41]).length = 7 ∧
      ∀ k ∈ ([0, 2, 3, 4, 5, 6] : List Nat), (0x00 : Byte) ≠ (encodeFrame [0x41]).getD k 0 := by decide
theorem test_witness_ChecksumBlindSpots :
    ([] : Bytes).length % 2 = 0 ∧ ([0x41, 0x42] : Bytes).length % 2 = 0 ∧ ([0x41] : Bytes).length % 2 = 1 ∧
      wordTotal ([0x00, 0x01] ++ []) ≠ 0 := by decide
theorem test_witness_WindowFillSendsTheRange :
    min srs.srs.n (srs.srs.winBase + srs.srs.w) ≤ srs.srs.chunk.length ∧
      min srs.srs.n (srs.srs.winBase + srs.srs.w) ≤ srs.srs.nextSeq := by decide
theorem test_witness_WindowAckAndAdvance :
    srs.srs.winBase ≤ srs.srs.nextSeq ∧ srsHs.srs.nextSeq ≤ srsHs.srs.winBase := by decide
theorem test_witness_MarkStoresFirstDelivery :
    EntryArray.wf srr.srr.rb ∧ (1#16).toNat < srr.srr.n ∧ readBit srr.srr.flags 1 = false ∧
      readBit srr.srr.flags 0 = true := by decide
theorem test_witness_CompleteIsAllReceived : SrrInv srr.srr := by decide
theorem test_witness_NakOnceTestsAndSets : (1#16).toNat < srr.srr.n := by decide
theorem test_witness_RetryTakeChargesOrRaises :
    budgetLeft sws sws.sws.retry ∧ budgetSpent swsLast swsLast.sws.retry ∧ budgetLeft srs srs.srs.retry ∧
      budgetSpent srsSpent srsSpent.srs.retry :=
  ⟨by decide, ⟨1, rfl, by decide⟩, by decide, ⟨0, rfl, by decide⟩⟩
theorem test_witness_MemReadReturnsTheElement :
    sws.sws.chunk[1]? = some [0x10] ∧ srs.srs.chunk[2]? = some [0x10] ∧ 65535 < 65536 ∧ 1 < srr.srr.n ∧ 2 < srs.srs.n ∧
      arrayLen .srrRb srr ≤ 2 ∧ arrayLen .swrRb swr ≤ 65536 ∧ srr.srr.n ≤ (2#16).toNat ∧
      (senderChunks .sws sws).length ≤ 2 := by decide
theorem test_witness_MemWriteChangesOneElement :
    Memory.wf srr ∧ Memory.wf srs ∧ 65535 < 65536 ∧ 1 < srr.srr.n ∧ 2 < srs.srs.n := by decide
theorem test_witness_ConcatJoinsInIndexOrder :
    full swr.swr.rb 1 ∧ full srr.srr.rb 1 ∧ ¬ full swr.swr.rb 2 ∧ ¬ full srr.srr.rb 2 := by decide
theorem test_witness_SerialisersAndParsersAgree : ([0x16, 0x16] : Bytes).length < 2 ^ 32 := by decide
theorem test_witness_SendingEmitsThePackets :
    1 < sws.sws.chunk.length ∧ 2 < srs.srs.chunk.length ∧ sws.sws.i < sws.sws.chunk.length ∧
      BitArray.wf srs.srs.outst ∧ ∀ k, readBit srs.srs.outst k = true → k < srs.srs.chunk.length := by
  refine ⟨by decide, by decide, by decide, by decide, fun k hk => ?_⟩
  have h : k ∈ ([0, 1] : List Nat) := List.contains_iff_mem.1 hk
  have h3 : srs.srs.chunk.length = 3 := rfl
  simp at h
  omega
theorem test_witness_StopWaitSenderStarts :
    State.reset.mode = .none ∧ (1 : Int) ≤ (1#32).toInt ∧ (65536#32).toInt ≤ 65536 ∧
      ([[0x41]] : List Bytes)[0]? = some [0x41] ∧ (0#32).toInt ≤ 0 ∧ 65536 < (65537#32).toInt ∧ sws.mode ≠ .none := by
  decide
theorem test_witness_StopWaitSenderAdvances :
    swsLast.sws.st = .awaitingAck ∧ swsLast.sws.i + 1 = swsLast.sws.n ∧ sws.sws.st = .awaitingAck ∧
      sws.sws.i + 1 ≠ sws.sws.n ∧ sws.sws.chunk[sws.sws.i + 1]? = some [0x10] ∧ sws.mode = .swTx := by decide
theorem test_witness_StopWaitSenderResends :
    sws.sws.st = .awaitingAck ∧ budgetLeft sws sws.sws.retry ∧ sws.sws.chunk[sws.sws.i]? = some [0x41] ∧
      sws.mode = .swTx ∧ swsLast.sws.st = .awaitingAck ∧ budgetSpent swsLast swsLast.sws.retry :=
  ⟨by decide, by decide, by decide, by decide, by decide, ⟨1, rfl, by decide⟩⟩
theorem test_witness_ReceiversStart : State.reset.mode = .none ∧ srr.mode ≠ .none := by decide
/-- First delivery and duplicate, without `last`, with `last` and a complete buffer, with `last` and a gap. -/
theorem test_witness_StopWaitReceiverAccepts :
    swr.swr.st = .receiving ∧ EntryArray.wf swr.swr.rb ∧ swr.mode = .swRx ∧
      decodeFrame swr.par.maxChunk frameA = { chunk := [0x41], valid := true, status := .ok } ∧
      readEntry swr.swr.rb 1 = none ∧ readEntry swr.swr.rb 0 ≠ none ∧
      full (storeIfAbsent swr.swr.rb 1 [0x41]) 2 ∧ ¬ full (storeIfAbsent swr.swr.rb 2 [0x41]) 3 := by decide
theorem test_witness_StopWaitReceiverRejects :
    swr.swr.st = .receiving ∧ swr.mode = .swRx ∧
      decodeFrame swr.par.maxChunk frameBad = { chunk := [0x42], valid := false, status := .badChecksum } := by decide
theorem test_witness_StopWaitHandOff :
    swr.swr.st = .receiving ∧ full swr.swr.rb 1 ∧ ¬ full swr.swr.rb 2 ∧ (after (.swrLast 0) swr).swr.lastIdx = some 0 ∧
      full (after (.swrLast 0) swr).swr.rb 1 ∧ (after (.swrLast 1) swr).swr.lastIdx = some 1 ∧
      ¬ full (after (.swrLast 1) swr).swr.rb 2 ∧ swr.swr.lastIdx = none := by decide
theorem test_witness_SelectiveRepeatSenderStarts :
    State.reset.mode = .none ∧ (1 : Int) ≤ (65536#32).toInt ∧ (65536#32).toInt ≤ 65536 ∧ (1 : Int) ≤ (1#32).toInt ∧
      (0#32).toInt ≤ 0 ∧ 65536 < (65537#32).toInt ∧ (0xFFFFFFFF#32).toInt ≤ 0 ∧ srs.mode ≠ .none := by decide
theorem test_witness_HandshakeReplyOpensTheWindow :
    SrsInv srsHs.par srsHs.srs ∧ srsHs.srs.st = .awaitHsAck ∧ srsHs.mode = .srTx := by decide
theorem test_witness_AcknowledgementSlidesTheWindow :
    SrsInv srs.par srs.srs ∧ srs.srs.st = .awaitReply ∧ srs.mode = .srTx := by decide
theorem test_witness_SelectiveRepeatSenderResends :
    srs.srs.st = .awaitReply ∧ srs.srs.nextSeq ≤ (2#16).toNat ∧ (1#16).toNat < srs.srs.nextSeq ∧
      budgetLeft srs srs.srs.retry ∧ srs.srs.nextSeq ≤ srs.srs.chunk.length ∧ BitArray.wf srs.srs.outst ∧
      srs.mode = .srTx ∧ srsSpent.srs.st = .awaitReply ∧ budgetSpent srsSpent srsSpent.srs.retry :=
  ⟨by decide, by decide, by decide, by decide, by decide, by decide, by decide, by decide, ⟨0, rfl, by decide⟩⟩
theorem test_witness_HandshakeOpensTheReceiver :
    srrHs.srr.st = .awaitHs ∧ srrHs.mode = .srRx ∧ (1 : Int) ≤ (65536#32).toInt ∧ (65536#32).toInt ≤ 65536 ∧
      (1 : Int) ≤ (1#32).toInt ∧ (0#32).toInt ≤ 0 ∧ 65536 < (65537#32).toInt := by decide
/-- The delivery that completes the buffer, and one that does not. -/
theorem test_witness_FirstDeliveryIsStoredAndAcknowledged :
    SrrInv srr.srr ∧ srr.srr.st = .receiving ∧ (1#16).toNat < srr.srr.n ∧ readBit srr.srr.flags 1 = false ∧
      srr.mode = .srRx ∧ srr.srr.rcount + 1 = srr.srr.n ∧
      decodeFrame srr.par.maxChunk frameA = { chunk := [0x41], valid := true, status := .ok } ∧
      SrrInv { srr.srr with n := 3 } ∧ ({ srr.srr with n := 3 } : Srr).rcount + 1 ≠ 3 := by decide
theorem test_witness_OtherDeliveriesStoreNothing :
    srr.srr.st = .receiving ∧ srr.srr.n ≤ (2#16).toNat ∧ (1#16).toNat < srr.srr.n ∧ readBit srr.srr.flags 0 = true ∧
      srr.mode = .srRx ∧ decodeFrame srr.par.maxChunk frameA = { chunk := [0x41], valid := true, status := .ok } ∧
      decodeFrame srr.par.maxChunk frameBad = { chunk := [0x42], valid := false, status := .badChecksum } := by decide
theorem test_witness_StopAndFailureEndTheSession :
    sws.mode = .swTx ∧ sws.sws.st = .awaitingAck ∧ swr.mode = .swRx ∧ swr.swr.st = .receiving ∧ srs.mode = .srTx ∧
      srsHs.srs.st = .awaitHsAck ∧ srs.srs.st = .awaitReply ∧ srr.mode = .srRx ∧ srrHs.srr.st = .awaitHs ∧
      srr.srr.st = .receiving ∧ State.reset.mode = .none ∧ ended (after .stop srs) := by decide
theorem test_witness_DefaultArmChangesNothing :
    (0x15 : Byte) ≠ 0x06 ∧ (0x15 : Byte) ≠ 0x21 ∧ sws.mode ≠ .swRx ∧ sws.mode ≠ .srRx ∧ srr.srr.st ≠ .awaitHs ∧
      (srrHs.mode = .srRx ∧ srrHs.srr.st ≠ .receiving ∧ srrHs.mode ≠ .swRx) ∧
      (srsHs.mode = .srTx ∧ srsHs.srs.st ≠ .awaitReply ∧ srsHs.mode ≠ .swTx) ∧ srr.mode ≠ .swTx ∧ srr.mode ≠ .srTx ∧
      (after .stop srs).srs.st ≠ .awaitReply ∧ (after .stop srs).srs.st ≠ .awaitHsAck ∧
      swr.sws.st ≠ .awaitingAck ∧ sws.swr.st ≠ .receiving ∧ srs.srs.st ≠ .awaitHsAck ∧ srsHs.srs.st ≠ .awaitReply ∧
      srrHs.srr.st ≠ .receiving := by decide

/-- One packet, delivered and acknowledged. -/
def swMoves : List Move := [.deliverDown, .deliverUp]

theorem test_witness_StopWaitSessionDeliversOnlyTheOriginal :
    (∀ m ∈ swMoves, fairMove none m) ∧
      ∃ x, moves (.toReceiver (.start .swRx) :: .toSender (.start (.swTx 1 [[0x41]])) :: swMoves)
        (Session.start { maxChunk := none, retryLimit := none } { maxChunk := none, retryLimit := none }) = some x ∧
        x.sunk = [[0x41]] :=
  ⟨by simp [swMoves, fairMove], _, rfl, by decide⟩

/-- The handshake, its reply, a packet and its acknowledgement. -/
def srMoves : List Move := [.deliverDown, .deliverUp, .deliverDown, .deliverUp]

theorem test_witness_SelectiveRepeatSessionDeliversOnlyTheOriginal :
    (∀ m ∈ srMoves, fairMove none m) ∧
      ∃ x, moves (.toReceiver (.start .srRx) :: .toSender (.start (.srTx 1 1 [[0x41]])) :: srMoves)
        (Session.start { maxChunk := none, retryLimit := none } { maxChunk := none, retryLimit := none }) = some x ∧
        x.sunk = [[0x41]] ∧ x.sender.srs.st = .done :=
  ⟨by simp [srMoves, fairMove], _, rfl, by decide, by decide⟩

/-- The Stop-and-Wait session after both starts, and the Selective-Repeat one: the invariants hold and a delivery moves. -/
theorem test_witness_FairMovesKeepSessionInvariants :
    (∃ x, moves [.toReceiver (.start .swRx), .toSender (.start (.swTx 1 [[0x41]]))]
        (Session.start { maxChunk := some 1, retryLimit := none } { maxChunk := none, retryLimit := none }) = some x ∧
      SwSessionInv x ∧ fairMove x.receiver.par.maxChunk .deliverDown ∧ ∃ y, move .deliverDown x = some y ∧
        y.sunk = [[0x41]]) ∧
    (∃ x, moves [.toReceiver (.start .srRx), .toSender (.start (.srTx 1 1 [[0x41]]))]
        (Session.start { maxChunk := some 1, retryLimit := none } { maxChunk := none, retryLimit := none }) = some x ∧
      SrSessionInv x ∧ fairMove x.receiver.par.maxChunk .deliverDown ∧ ∃ y, move .deliverDown x = some y ∧
        y.up = [.ctrl 0x06 0]) := by
  refine ⟨⟨_, rfl, ⟨⟨?_, ?_, ?_, ?_, ?_, ?_⟩, ⟨?_, ?_, ?_, ?_, ?_, ?_⟩, ?_⟩, trivial, _, rfl, ?_⟩,
    ⟨_, rfl, ⟨⟨?_, ?_, ?_, ?_, ?_, ?_⟩, ⟨?_, ?_, ?_, ?_, ?_, ?_⟩, ?_, ?_, ?_, ?_, ?_⟩, trivial, _, rfl, ?_⟩⟩ <;> decide

end Sys2Proof.Tests
end

section
/-!
PROOFS. The Frame Codec: how `STUFF`, `UNSTUFF`, the frame layout and `DECODE` behave, and the obligations about stuffing,
encoding and the round trips (R121, R124, R127, R128).
-/

namespace Sys2Proof.Machine

/-! ### Stuffing -/

theorem reserved_iff {b : Byte} :
    reserved b = true ↔ b = 0x16#8 ∨ b = 0x02#8 ∨ b = 0x03#8 ∨ b = 0x10#8 := by
  simp only [reserved, Bool.or_eq_true, decide_eq_true_iff, or_assoc]
  exact Iff.rfl

@[simp] theorem reserved_esc : reserved Config.esc = true := by decide

theorem ne_esc_of_not_reserved {b : Byte} (h : ¬ reserved b = true) : b ≠ Config.esc := by
  rintro rfl
  exact h reserved_esc

theorem stuff_cons_of_reserved {b : Byte} (h : reserved b = true) (r : Bytes) :
    stuff (b :: r) = Config.esc :: b :: stuff r := by simp [stuff, h]

theorem stuff_cons_of_not_reserved {b : Byte} (h : ¬ reserved b = true) (r : Bytes) :
    stuff (b :: r) = b :: stuff r := by simp [stuff, h]

/-- Each byte is stuffed by itself, whatever stands beside it (R121). -/
theorem stuff_eq_flatMap (x : Bytes) :
    stuff x = x.flatMap fun b =>
      if b = 0x16#8 ∨ b = 0x02#8 ∨ b = 0x03#8 ∨ b = 0x10#8 then [0x10#8, b] else [b] := by
  induction x with
  | nil => rfl
  | cons b r ih =>
    rw [List.flatMap_cons, ← ih]
    by_cases h : reserved b = true
    · rw [stuff_cons_of_reserved h, if_pos (reserved_iff.1 h)]
      rfl
    · rw [stuff_cons_of_not_reserved h, if_neg (mt reserved_iff.2 h)]
      rfl

/-- At most every byte gets an escape (R130). -/
theorem stuff_length_le (x : Bytes) : (stuff x).length ≤ 2 * x.length := by
  induction x with
  | nil => exact le_rfl
  | cons b r ih =>
    by_cases h : reserved b = true
    · simp only [stuff_cons_of_reserved h, List.length_cons]
      omega
    · simp only [stuff_cons_of_not_reserved h, List.length_cons]
      omega

/-! ### Unstuffing -/

/-- The byte after an escape is data, even another escape (R122). -/
theorem unstuff_esc_cons (b : Byte) (r : Bytes) : unstuff (Config.esc :: b :: r) = b :: unstuff r := by
  simp [unstuff]

theorem unstuff_cons_of_ne_esc {b : Byte} (h : b ≠ Config.esc) (r : Bytes) : unstuff (b :: r) = b :: unstuff r := by
  cases r with
  | nil => simp [unstuff, h]
  | cons c r => simp [unstuff, h]

/-- `Unstuff(Stuff(x)) = x` (R127). An escape put by `stuff` takes the reserved byte after it; a byte without an escape is
not reserved, so it is not read as one. -/
@[simp] theorem unstuff_stuff (x : Bytes) : unstuff (stuff x) = x := by
  induction x with
  | nil => rfl
  | cons b r ih =>
    by_cases h : reserved b = true
    · rw [stuff_cons_of_reserved h, unstuff_esc_cons, ih]
    · rw [stuff_cons_of_not_reserved h, unstuff_cons_of_ne_esc (ne_esc_of_not_reserved h), ih]

/-! ### The layout of a frame -/

theorem high_byte_eq (v : U16) : v.extractLsb' 8 8 = BitVec.ofNat 8 (v.toNat / 256) := by
  apply BitVec.eq_of_toNat_eq
  simp [BitVec.extractLsb'_toNat, Nat.shiftRight_eq_div_pow]

theorem low_byte_eq (v : U16) : v.extractLsb' 0 8 = BitVec.ofNat 8 v.toNat := by
  apply BitVec.eq_of_toNat_eq
  simp [BitVec.extractLsb'_toNat]

theorem toNat_high_low_bytes (v : U16) : (v.extractLsb' 8 8).toNat * 256 + (v.extractLsb' 0 8).toNat = v.toNat := by
  have hv := v.isLt
  simp only [high_byte_eq, low_byte_eq, BitVec.toNat_ofNat]
  omega

@[simp] theorem frameBytes_length (body : Bytes) (etx : Byte) (csum : U16) :
    (frameBytes body etx csum).length = body.length + 6 := by
  simp only [frameBytes, List.length_append, List.length_cons, List.length_nil]
  omega

/-- The first three bytes of a frame are its header (R65). -/
theorem byteAt_frameBytes_header (body : Bytes) (etx : Byte) (csum : U16) :
    byteAt (frameBytes body etx csum) 0 = Config.sync ∧ byteAt (frameBytes body etx csum) 1 = Config.sync ∧
      byteAt (frameBytes body etx csum) 2 = Config.stx := ⟨rfl, rfl, rfl⟩

/-- The three bytes after the body are the trailer (R65). -/
theorem byteAt_frameBytes_trailer (body : Bytes) (etx : Byte) (csum : U16) (j : Nat) :
    byteAt (frameBytes body etx csum) (body.length + 3 + j) =
      [etx, csum.extractLsb' 8 8, csum.extractLsb' 0 8].getD j 0 := by
  have hlen : ([Config.sync, Config.sync, Config.stx] ++ body).length = body.length + 3 := by
    rw [List.length_append, Nat.add_comm]
    rfl
  rw [byteAt, frameBytes, List.getD_append_right _ _ _ _ (by omega), hlen, Nat.add_sub_cancel_left]

/-- Between header and trailer stands the body (R65). -/
theorem body_of_frameBytes (body : Bytes) (etx : Byte) (csum : U16) :
    ((frameBytes body etx csum).drop 3).take body.length = body := by
  simp [frameBytes]

/-! ### Decoding -/

/-- No frame is too long for an unbounded `MAX_CHUNK`; otherwise `MAX_FRAME` is the bound (R130). -/
theorem tooLong_eq_false_iff {maxChunk : Option Nat} {len : Nat} :
    tooLong maxChunk len = false ↔ ∀ k ∈ maxChunk, len ≤ 6 + 2 * k := by
  cases maxChunk with
  | none => simp [tooLong]
  | some k => simp [tooLong]

/-- A frame with the right markers, not too long, is unstuffed, and it is valid exactly when it carries the checksum of
its body (R125). -/
theorem decodeFrame_frameBytes {maxChunk : Option Nat} {body : Bytes} (csum : U16)
    (hlen : tooLong maxChunk (body.length + 6) = false) :
    decodeFrame maxChunk (frameBytes body Config.etx csum) =
      if csum16 body = csum then { chunk := unstuff body, valid := true, status := .ok }
      else { chunk := unstuff body, valid := false, status := .badChecksum } := by
  obtain ⟨h0, h1, h2⟩ := byteAt_frameBytes_header body Config.etx csum
  have htrailer := byteAt_frameBytes_trailer body Config.etx csum
  have hetx : byteAt (frameBytes body Config.etx csum) (body.length + 6 - 3) = Config.etx := htrailer 0
  have hhi : byteAt (frameBytes body Config.etx csum) (body.length + 6 - 2) = csum.extractLsb' 8 8 := htrailer 1
  have hlo : byteAt (frameBytes body Config.etx csum) (body.length + 6 - 1) = csum.extractLsb' 0 8 := htrailer 2
  have hmin : ¬ body.length + 6 < Config.minFrame := by simp [Config.minFrame]
  simp only [decodeFrame, frameBytes_length, hmin, hlen, h0, h1, h2, hetx, hhi, hlo, Nat.add_sub_cancel,
    body_of_frameBytes, toNat_high_low_bytes, BitVec.toNat_inj, ne_eq, not_true_eq_false, or_self, if_false,
    Bool.false_eq_true]

/-- `Decode(Encode(c))` is `c`, valid, for every chunk of at most `MAX_CHUNK` bytes (R128). -/
theorem decodeFrame_encodeFrame {maxChunk : Option Nat} {c : Bytes} (h : ∀ k ∈ maxChunk, c.length ≤ k) :
    decodeFrame maxChunk (encodeFrame c) = { chunk := c, valid := true, status := .ok } := by
  have hlen : tooLong maxChunk ((stuff c).length + 6) = false := by
    rw [tooLong_eq_false_iff]
    intro k hk
    have hc := h k hk
    have hs := stuff_length_le c
    omega
  rw [encodeFrame, decodeFrame_frameBytes _ hlen, if_pos rfl, unstuff_stuff]

/-! ### The rows of the codec: a result and no other change -/

theorem exec_stuff (x : Bytes) (s : State) : exec (.stuff x) s = .next { s with ret := .bytes (stuff x) } := rfl

theorem exec_unstuff (y : Bytes) (s : State) : exec (.unstuff y) s = .next { s with ret := .bytes (unstuff y) } := rfl

theorem exec_encode (c : Bytes) (s : State) : exec (.encode c) s = .next { s with ret := .bytes (encodeFrame c) } := rfl

theorem exec_decode (f : Bytes) (s : State) :
    exec (.decode f) s = .next { s with ret := decodedRet (decodeFrame s.par.maxChunk f) } := rfl

/-! ### The obligations -/

/-- Settles O18: `exec` gives `stuff x`, which works byte by byte. -/
theorem stuffEscapesReservedBytes : Obligations.StuffEscapesReservedBytes := by
  intro x s
  rw [exec_stuff, stuff_eq_flatMap]

/-- Settles O20: by `unstuff_stuff`, and by the spec's two counterexamples to the converse. -/
theorem unstuffUndoesStuff : Obligations.UnstuffUndoesStuff := by
  refine ⟨fun x s => ?_, by decide, by decide⟩
  rw [exec_unstuff, unstuff_stuff]

/-- Settles O24: by `decodeFrame_encodeFrame`. -/
theorem decodeOfEncode : Obligations.DecodeOfEncode := by
  intro c s h
  rw [exec_decode, decodeFrame_encodeFrame h]
  rfl

/-- Settles O22: the two checksum bytes are the high and the low byte of the 16-bit value. -/
theorem encodeLaysOutTheFrame : Obligations.EncodeLaysOutTheFrame := by
  intro c s
  rw [exec_encode, encodeFrame, frameBytes, high_byte_eq, low_byte_eq]
  rfl

end Sys2Proof.Machine
end

section
/-!
PROOFS. The window manager: what `WIN_FILL` (and `FILL`, its other name) sends and marks, and the obligation about it
(R99, R154).
-/

namespace Sys2Proof.Machine

/-- `sent`, the term of the statements, in terms of the one message `SEND` emits (R99). -/
theorem sent_eq_map_dataMessage (n : Nat) (chunk : List Bytes) (ks : List Nat) :
    sent n chunk ks = ks.map fun k => dataMessage n k (chunk.getD k []) := rfl

theorem exec_winFill (s : State) : exec .winFill s = (winFill s).outcome := rfl

/-- `FILL` is another name of `WIN_FILL` (R99). -/
theorem exec_fill (s : State) : exec .fill s = exec .winFill s := rfl

/-- Adding the indices from `lo` up to `hi`, none if `hi` is not above `lo`, sets the bits of the interval `[lo, hi)`. -/
theorem readBit_addRange_sub (outst : BitArray) (lo hi j : Nat) :
    readBit (addRange outst (hi - lo) lo) j = (readBit outst j || decide (lo ≤ j ∧ j < hi)) := by
  have hrange : (lo ≤ j ∧ j < lo + (hi - lo)) ↔ (lo ≤ j ∧ j < hi) := by omega
  rw [readBit_addRange, ← Bool.decide_and, decide_eq_decide.2 hrange]

/-- Settles O30: `winFill_of_le` gives the next state of both rows, `readBit_addRange_sub` the bits it has set. -/
theorem windowFillSendsTheRange : Obligations.WindowFillSendsTheRange := by
  intro s hchunk
  have hfill := exec_winFill s
  rw [winFill_of_le s hchunk, ← sent_eq_map_dataMessage] at hfill
  exact ⟨_, _, hfill, (exec_fill s).trans hfill, rfl, readBit_addRange_sub s.srs.outst s.srs.nextSeq _⟩

end Sys2Proof.Machine
end

section
/-!
PROOFS. The Stop-and-Wait engine: what `SWS.ACK` does to the sender and what a frame that does not decode does to the
receiver, as rows of their own and as channel messages, and the obligations about them (R173, R184).
-/

namespace Sys2Proof.Machine

/-! ### Sender -/

theorem exec_swsAck (num : U16) (s : State) : exec (.swsAck num) s = (swsAck s).outcome := rfl

/-- The message `ACK` at a Stop-and-Wait sender is its row `SWS.ACK` (R173, R242). -/
theorem exec_ack_of_swTx {s : State} (h : s.mode = .swTx) (num : U16) : exec (.ack num) s = exec (.swsAck num) s := by
  have hrx : rxCtrl Config.ackKind num s = swsAck s := by rw [rxCtrl, h, if_pos rfl]
  exact congrArg Res.outcome hrx

/-- The wire sequence number counts as a byte does (R151). -/
theorem seqInc_eq (s : State) :
    seqInc s = { s with sws := { s.sws with currSeq := s.sws.currSeq + 1#8 } } := by
  have hbyte : BitVec.ofNat 8 ((s.sws.currSeq.toNat + 1) % Config.seqMod) = s.sws.currSeq + 1#8 := by
    apply BitVec.eq_of_toNat_eq
    simp [Config.seqMod]
  rw [seqInc, hbyte]
  rfl

theorem swsAdvance_eq (s : State) :
    swsAdvance s =
      { s with sws := { s.sws with i := s.sws.i + 1, currSeq := s.sws.currSeq + 1#8, retry := 0 } } := by
  rw [swsAdvance, seqInc_eq]
  rfl

/-- After the advance the stream is at its end exactly when the chunk just acknowledged was the last (R173). -/
theorem swsAdvance_end_iff (s : State) :
    (swsAdvance s).sws.i = (swsAdvance s).sws.n ↔ s.sws.i + 1 = s.sws.n := by
  rw [swsAdvance_eq]

/-- `SEND(k)` of a chunk that is known: its packet leaves and nothing else changes (R99). -/
theorem sendPacket_of_getElem? {e : Sender} {k : Nat} {s : State} {c : Bytes} (h : (senderChunks e s)[k]? = some c) :
    sendPacket e k s = .ok (s.emit (dataMessage (senderN e s) k c)) := by
  rw [sendPacket, h]

/-- `SWS.ACK` of the last chunk: the session is done (R173). -/
theorem swsAck_of_last {s : State} (hst : s.sws.st = .awaitingAck) (hlast : s.sws.i + 1 = s.sws.n) :
    swsAck s = .ok ((swsAdvance s).setSws { (swsAdvance s).sws with st := .done }) := by
  rw [swsAck, if_pos hst, if_pos ((swsAdvance_end_iff s).2 hlast)]

/-- `SWS.ACK` of another chunk: the next one is sent (R173). -/
theorem swsAck_of_not_last {s : State} {c : Bytes} (hst : s.sws.st = .awaitingAck) (hnot : s.sws.i + 1 ≠ s.sws.n)
    (hchunk : s.sws.chunk[s.sws.i + 1]? = some c) :
    swsAck s = .ok ((swsAdvance s).emit (dataMessage s.sws.n (s.sws.i + 1) c)) := by
  rw [swsAck, if_pos hst, if_neg (mt (swsAdvance_end_iff s).1 hnot)]
  exact sendPacket_of_getElem? (e := .sws) (s := swsAdvance s) hchunk

/-! ### Receiver -/

/-- A frame that `DECODE` finds invalid is the third case of `SWR.DATA`, whatever the buffer holds (R184). -/
theorem swrCase_of_invalid {idx : U16} {frame : Bytes} {s : State} (hst : s.swr.st = .receiving)
    (hinvalid : (decodeFrame s.par.maxChunk frame).valid = false) :
    swrCase idx frame s = .bad (decodeFrame s.par.maxChunk frame).status := by
  simp [swrCase, hst, hinvalid]

/-- The row of the invalid frame runs its case (R184). -/
theorem exec_swrDataInvalid_of_bad {idx : U16} {frame : Bytes} {s : State} {status : RxStat}
    (h : swrCase idx frame s = .bad status) (last : Bool) :
    exec (.swrDataInvalid idx last frame) s = .next (swrBad idx status s) := by
  change execSwrDataInvalid idx last frame s = _
  rw [execSwrDataInvalid, h]

/-- The envelope at a Stop-and-Wait receiver is the event `RX_DATA` there (R180, R240). -/
theorem exec_env_of_swRx {s : State} (h : s.mode = .swRx) (idx : U16) (b : Byte) (frame : Bytes) :
    exec (.env idx b frame) s = .next (swrData idx (lastOfByte b) frame s) := by
  have hrx : rxData idx (lastOfByte b) frame s = swrData idx (lastOfByte b) frame s := by rw [rxData, h]
  exact congrArg Host.Outcome.next hrx

theorem swrData_of_bad {idx : U16} {frame : Bytes} {s : State} {status : RxStat}
    (h : swrCase idx frame s = .bad status) (last : Bool) : swrData idx last frame s = swrBad idx status s := by
  rw [swrData, h]

/-! ### The obligations -/

/-- Settles O43: the row by `swsAck_of_last` and `swsAck_of_not_last`, with the registers of `swsAdvance_eq`; the message
`ACK` runs the same row. -/
theorem stopWaitSenderAdvances : Obligations.StopWaitSenderAdvances := by
  intro num c s
  refine ⟨fun hst hlast => ?done, fun hst hnot hchunk => ?next⟩
  case done =>
    have hrow := exec_swsAck num s
    rw [swsAck_of_last hst hlast, swsAdvance_eq] at hrow
    exact ⟨_, hrow, fun hmode => (exec_ack_of_swTx hmode num).trans hrow, rfl⟩
  case next =>
    have hrow := exec_swsAck num s
    rw [swsAck_of_not_last hst hnot hchunk, swsAdvance_eq] at hrow
    exact ⟨_, hrow, fun hmode => (exec_ack_of_swTx hmode num).trans hrow, rfl⟩

/-- Settles O47: row and envelope both run the case `swrCase_of_invalid` names, which is `swrBad` for either value of
`last`. -/
theorem stopWaitReceiverRejects : Obligations.StopWaitReceiverRejects := by
  intro idx b frame c status s hst hdecode
  have hcase : swrCase idx frame s = .bad status := by
    rw [swrCase_of_invalid hst (by rw [hdecode]), hdecode]
  refine ⟨swrBad idx status s, exec_swrDataInvalid_of_bad hcase _, fun hmode => ?_, rfl⟩
  rw [exec_env_of_swRx hmode, swrData_of_bad hcase]

end Sys2Proof.Machine
end

section
/-!
PROOFS. The Selective-Repeat receiver: how its buffer, its flags and its count belong together, what a first delivery
does to them, when that completes the buffer, and the obligation about it (R160, R161, R219, R222, R223).
-/

namespace Sys2Proof.Machine

/-! ### The flags and the entries of a buffer -/

theorem setBit_length_of_unset {l : BitArray} {i : Nat} (h : readBit l i = false) :
    (setBit l i).length = l.length + 1 := by
  induction l with
  | nil => rfl
  | cons k r ih =>
    have hmem : i ∉ k :: r := fun hi => Bool.false_ne_true (h ▸ readBit_eq_true.2 hi)
    obtain ⟨hne, hr⟩ := not_or.1 (mt List.mem_cons.2 hmem)
    rw [setBit, if_neg hne]
    split
    · rfl
    · exact congrArg (· + 1) (ih (Bool.eq_false_iff.2 (mt readBit_eq_true.1 hr)))

/-- Store-if-absent lists the entry it writes where `setBit` lists the flag. -/
theorem fst_storeIfAbsent (l : EntryArray) (i : Nat) (c : Bytes) :
    (storeIfAbsent l i c).map Prod.fst = setBit (l.map Prod.fst) i := by
  induction l with
  | nil => rfl
  | cons x r ih =>
    obtain ⟨k, d⟩ := x
    simp only [storeIfAbsent, List.map_cons, setBit, ← ih]
    split
    · rfl
    · split <;> rfl

/-- A canonical array of `n` bits has all of them set exactly when it lists `n` of them: it is then a list of `n`
different indices below `n` (R161). -/
theorem all_bits_set_iff {l : BitArray} {n : Nat} (hwf : BitArray.wf l) (hlt : ∀ k ∈ l, k < n) :
    (∀ j < n, readBit l j = true) ↔ l.length = n := by
  have hnodup : l.Nodup := hwf.imp Nat.ne_of_lt
  have hsub : l.Subperm (List.range n) := hnodup.subperm fun k hk => List.mem_range.2 (hlt k hk)
  constructor
  · intro hall
    have hsup : (List.range n).Subperm l :=
      List.nodup_range.subperm fun j hj => readBit_eq_true.1 (hall j (List.mem_range.1 hj))
    simpa using (hsub.antisymm hsup).length_eq
  · intro hlen j hj
    have hperm : l.Perm (List.range n) := hsub.perm_of_length_le (by simp [hlen])
    exact readBit_eq_true.2 (hperm.mem_iff.2 (List.mem_range.2 hj))

theorem entriesPresent_iff_full {rb : EntryArray} {n : Nat} : entriesPresent rb n = true ↔ full rb n := by
  simp [entriesPresent, full, Option.isSome_iff_ne_none]

/-- `concat` of a full buffer is the concatenation of its entries (R73). -/
theorem concatFrom_of_full {rb : EntryArray} {n : Nat} (h : full rb n) : concatFrom rb n = some (joined rb n) := by
  induction n with
  | zero => rfl
  | succ n ih =>
    obtain ⟨c, hc⟩ := Option.ne_none_iff_exists'.1 (h n n.lt_succ_self)
    rw [concatFrom, ih fun j hj => h j (Nat.lt_succ_of_lt hj), hc]
    simp [joined, List.range_succ, hc]

/-- The hand-off of a full buffer uses no free value (R73, R222). -/
theorem concatOr_of_full {rb : EntryArray} {n : Nat} (h : full rb n) (s : State) :
    concatOr rb n s = (joined rb n, s) := by
  rw [concatOr, concatFrom_of_full h]

/-! ### What a receiver counts -/

/-- The part of the receiver's invariants about its buffer: the entries are those flagged, `RCOUNT` is their number, and
each is below `N` (R36). -/
structure Counted (r : Srr) : Prop where
  flags_wf : BitArray.wf r.flags
  count : r.rcount = r.flags.length
  entries : r.rb.map Prod.fst = r.flags
  below : ∀ k ∈ r.flags, k < r.n

theorem SrrInv.counted {r : Srr} (h : SrrInv r) : Counted r := by
  obtain ⟨-, -, hflags, -, -, hcount, hentries, hbelow, -⟩ := h
  exact ⟨hflags, hcount, hentries, hbelow⟩

theorem Counted.readEntry_eq_none_iff {r : Srr} (h : Counted r) (j : Nat) :
    readEntry r.rb j = none ↔ readBit r.flags j = false := by
  rw [readEntry_eq_none, h.entries, ← readBit_eq_true, Bool.not_eq_true]

theorem Counted.rb_wf {r : Srr} (h : Counted r) : EntryArray.wf r.rb := by
  rw [EntryArray.wf, h.entries]
  exact h.flags_wf

theorem Counted.all_flags_iff {r : Srr} (h : Counted r) :
    (∀ j < r.n, readBit r.flags j = true) ↔ r.rcount = r.n := by
  rw [all_bits_set_iff h.flags_wf h.below, h.count]

/-- `RX_COMPLETE` holds exactly when all packets are counted: `LASTSEEN` does not matter (R161). -/
theorem Counted.rxComplete_iff {r : Srr} (h : Counted r) : rxComplete r = true ↔ r.rcount = r.n := by
  have hall : (List.range r.n).all (readBit r.flags) = true ↔ r.rcount = r.n := by
    rw [← h.all_flags_iff]
    simp
  rw [rxComplete, Bool.and_eq_true, hall, Bool.or_eq_true, decide_eq_true_iff]
  exact ⟨And.right, fun hn => ⟨.inl hn, hn⟩⟩

/-- All packets counted, the buffer has no `ABSENT` entry (R222). -/
theorem Counted.full_of_all {r : Srr} (h : Counted r) (hn : r.rcount = r.n) : full r.rb r.n := by
  intro j hj hnone
  have hset := h.all_flags_iff.2 hn j hj
  rw [(h.readEntry_eq_none_iff j).1 hnone] at hset
  exact Bool.false_ne_true hset

/-! ### A first delivery -/

/-- The receiver after a first delivery of chunk `c` under index `i`: stored, flagged and counted (R160). -/
def marked (i : Nat) (c : Bytes) (r : Srr) : Srr :=
  { r with rb := storeIfAbsent r.rb i c, flags := setBit r.flags i, rcount := r.rcount + 1 }

theorem rxMark_of_first {idx : U16} {s : State} (h : readBit s.srr.flags idx.toNat = false) (c : Bytes) :
    rxMark idx c s = s.setSrr (marked idx.toNat c s.srr) := by
  rw [rxMark, rxMarkFirst, h]
  rfl

theorem counted_marked {r : Srr} {i : Nat} (h : Counted r) (hi : i < r.n) (hfirst : readBit r.flags i = false)
    (c : Bytes) : Counted (marked i c r) where
  flags_wf := setBit_wf h.flags_wf i
  count := by
    change r.rcount + 1 = (setBit r.flags i).length
    rw [setBit_length_of_unset hfirst, h.count]
  entries := by
    change (storeIfAbsent r.rb i c).map Prod.fst = setBit r.flags i
    rw [fst_storeIfAbsent, h.entries]
  below := by
    intro k hk
    rcases mem_setBit.1 hk with rfl | hold
    · exact hi
    · exact h.below k hold

/-- The chunk of a first delivery is the entry that is then read: nothing was stored under its index before (R64). -/
theorem Counted.readEntry_marked {r : Srr} {i : Nat} (h : Counted r) (hfirst : readBit r.flags i = false) (c : Bytes)
    (j : Nat) : readEntry (marked i c r).rb j = if j = i then some c else readEntry r.rb j := by
  have habsent : readEntry r.rb i = none := (h.readEntry_eq_none_iff i).2 hfirst
  change readEntry (storeIfAbsent r.rb i c) j = _
  rw [readEntry_storeIfAbsent h.rb_wf, habsent, Option.getD_none]

/-- Completion ends the session with the hand-off of the whole buffer when all packets are counted (R222). -/
theorem srrComplete_of_all {s : State} (h : Counted s.srr) (hn : s.srr.rcount = s.srr.n) :
    srrComplete s =
      (s.emit (.sink (joined s.srr.rb s.srr.n))).setSrr { s.srr with st := .done } := by
  rw [srrComplete, if_pos (h.rxComplete_iff.2 hn), concatOr_of_full (h.full_of_all hn)]
  rfl

/-- Completion does nothing while a packet is missing (R222). -/
theorem srrComplete_of_missing {s : State} (h : Counted s.srr) (hn : s.srr.rcount ≠ s.srr.n) : srrComplete s = s := by
  rw [srrComplete, if_neg (mt h.rxComplete_iff.1 hn)]

/-- The state a first delivery leaves, by whether it is the last missing packet (R219, R222, R223). -/
theorem srrFirst_eq {idx : U16} {s : State} (h : Counted s.srr) (hst : s.srr.st = .receiving)
    (hidx : idx.toNat < s.srr.n) (hfirst : readBit s.srr.flags idx.toNat = false) (last : Bool) (c : Bytes) :
    srrFirst idx last c s = { s with
      srr := { marked idx.toNat c s.srr with
        st := if s.srr.rcount + 1 = s.srr.n then .done else .receiving
        lastSeen := s.srr.lastSeen || last
        rxStat := .ok }
      tx := s.tx ++ (.ctrl 0x06 idx ::
        (if s.srr.rcount + 1 = s.srr.n then [.sink (joined (marked idx.toNat c s.srr).rb s.srr.n)] else [])) } := by
  have hmarked := counted_marked h hidx hfirst c
  have haccepted : Counted (srrAccept idx last (s.setSrr (marked idx.toNat c s.srr))).srr :=
    ⟨hmarked.flags_wf, hmarked.count, hmarked.entries, hmarked.below⟩
  rw [srrFirst, rxMark_of_first hfirst]
  by_cases hn : s.srr.rcount + 1 = s.srr.n
  · rw [srrComplete_of_all haccepted hn, if_pos hn, if_pos hn, List.append_cons]
    rfl
  · rw [srrComplete_of_missing haccepted hn, if_neg hn, if_neg hn, ← hst]
    rfl

/-! ### The row and the envelope -/

/-- A valid frame in range whose flag is 0 is the second case of `SRR.DATA` (R219, R224). -/
theorem srrCase_of_first {idx : U16} {frame : Bytes} {s : State} (hst : s.srr.st = .receiving)
    (hidx : idx.toNat < s.srr.n) (hfirst : readBit s.srr.flags idx.toNat = false)
    (hvalid : (decodeFrame s.par.maxChunk frame).valid = true) :
    srrCase idx frame s = .first (decodeFrame s.par.maxChunk frame).chunk := by
  simp [srrCase, idxValid, hst, hidx, hfirst, hvalid]

/-- The row of the first delivery runs its case (R219). -/
theorem exec_srrDataValidFirst_of_first {idx : U16} {frame c : Bytes} {s : State}
    (h : srrCase idx frame s = .first c) (last : Bool) :
    exec (.srrDataValidFirst idx last frame) s = .next (srrFirst idx last c s) := by
  change execSrrDataValidFirst idx last frame s = _
  rw [execSrrDataValidFirst, h]

/-- The envelope at a Selective-Repeat receiver is the event `RX_DATA` there (R224, R240). -/
theorem exec_env_of_srRx {s : State} (h : s.mode = .srRx) (idx : U16) (b : Byte) (frame : Bytes) :
    exec (.env idx b frame) s = .next (srrData idx (lastOfByte b) frame s) := by
  have hrx : rxData idx (lastOfByte b) frame s = srrData idx (lastOfByte b) frame s := by rw [rxData, h]
  exact congrArg Host.Outcome.next hrx

theorem srrData_of_first {idx : U16} {frame c : Bytes} {s : State} (h : srrCase idx frame s = .first c)
    (last : Bool) : srrData idx last frame s = srrFirst idx last c s := by
  rw [srrData, h]

/-! ### The obligation -/

/-- Settles O54: row and envelope both run the case `srrCase_of_first` names, whose next state is `srrFirst_eq`; that
the whole buffer is handed off is `Counted.full_of_all` of the marked receiver. -/
theorem firstDeliveryIsStoredAndAcknowledged : Obligations.FirstDeliveryIsStoredAndAcknowledged := by
  intro idx b frame c s hinv hst hidx hfirst hdecode
  have hcounted := SrrInv.counted hinv
  have hcase : srrCase idx frame s = .first c := by
    rw [srrCase_of_first hst hidx hfirst (by rw [hdecode]), hdecode]
  have hnext := srrFirst_eq hcounted hst hidx hfirst (decide (b ≠ 0)) c
  refine ⟨_, _, srrFirst idx (decide (b ≠ 0)) c s, exec_srrDataValidFirst_of_first hcase _, fun hmode => ?envelope,
    fun j => ?flags, hcounted.readEntry_marked hfirst c, (counted_marked hcounted hidx hfirst c).full_of_all, hnext⟩
  case envelope =>
    rw [exec_env_of_srRx hmode, srrData_of_first hcase]
    rfl
  case flags =>
    change readBit (setBit s.srr.flags idx.toNat) j = _
    rw [readBit_setBit, Bool.or_comm]

end Sys2Proof.Machine
end

section
/-!
PROOFS. The wire formats: reading what was laid out and laying out what was read, and the obligations about the decoder,
the encoder, the serialisers and the parsers (R81 to R86, R96, R97, R242 to R245).
-/

-- The proofs one after the other: side by side, those of the whole text need more memory than the check allows.
set_option Elab.async false

namespace Sys2Proof.Machine

/-! ### Laying out what was read -/

/-- What the parser of a control reply takes from a stream is what `SER_CTRL` would put there (R242). -/
theorem eq_serCtrl_of_readCtrl {bytes rest : Bytes} {kind : Byte} {num : U16}
    (h : readCtrl bytes = some (kind, num, rest)) : bytes = serCtrl kind num ++ rest := by
  unfold readCtrl at h
  split at h
  · cases h
    simp [serCtrl]
  · cases h

/-- What the parser of a handshake takes from a stream is what `SER_HS` would put there (R244). -/
theorem eq_serHs_of_readHs {bytes rest : Bytes} {n w : I32} (h : readHs bytes = some (n, w, rest)) :
    bytes = serHs n w ++ rest := by
  unfold readHs at h
  split at h
  · cases h
    simp [serHs]
  · cases h

/-- A 32-bit length read from a stream is the `LEN` of any frame of that length (R90). -/
theorem lenField_of_length_eq {len : I32} {frame : Bytes} (h : frame.length = len.toNat) :
    lenFits frame = true ∧ lenField frame = len := by
  have hfits : lenFits frame = true := decide_eq_true (h ▸ len.isLt)
  exact ⟨hfits, BitVec.eq_of_toNat_eq ((lenField_toNat hfits).trans h)⟩

/-- What the parser of an envelope takes from a stream is an envelope around a frame that `LEN` can count (R243). -/
theorem eq_envelope_of_readEnv {bytes frame rest : Bytes} {idx : U16} {last : Byte}
    (h : readEnv bytes = some (idx, last, frame, rest)) :
    lenFits frame = true ∧ bytes = be32 (lenField frame) ++ be16 idx ++ [last] ++ frame ++ rest := by
  unfold readEnv at h
  split at h
  · simp only [Option.ite_none_right_eq_some, Option.some.injEq, Prod.mk.injEq] at h
    obtain ⟨hlen, rfl, rfl, rfl, rfl⟩ := h
    obtain ⟨hfits, hfield⟩ := lenField_of_length_eq (List.length_take_of_le hlen)
    exact ⟨hfits, by simp [hfield]⟩
  · cases h

/-- A list of at least three bytes ends in its last three. -/
theorem drop_sub_three {bytes : Bytes} (h : 3 ≤ bytes.length) :
    bytes.drop (bytes.length - 3) =
      [byteAt bytes (bytes.length - 3), byteAt bytes (bytes.length - 2), byteAt bytes (bytes.length - 1)] := by
  apply List.ext_getElem
  · simp only [List.length_drop, List.length_cons, List.length_nil]
    omega
  · intro j hj hj'
    have hj3 : j < 3 := hj'
    rw [List.getElem_drop]
    interval_cases j <;> simp only [List.getElem_cons_zero, List.getElem_cons_succ, byteAt] <;>
      rw [List.getD_eq_getElem _ _ (by omega)] <;> congr 1 <;> omega

/-- A frame long enough and with the header of the row is laid out again by the fields the row reads from it (R81). -/
theorem frameBytes_of_header {bytes : Bytes} (hlen : Config.minFrame ≤ bytes.length)
    (hhead : bytes.take 3 = [Config.sync, Config.sync, Config.stx]) :
    frameBytes ((bytes.drop 3).take (bytes.length - 6)) (byteAt bytes (bytes.length - 3))
      (fromBe16 (byteAt bytes (bytes.length - 2)) (byteAt bytes (bytes.length - 1))) = bytes := by
  have hsix : 6 ≤ bytes.length := hlen
  have htail : (bytes.drop 3).drop (bytes.length - 6) =
      byteAt bytes (bytes.length - 3) ::
        be16 (fromBe16 (byteAt bytes (bytes.length - 2)) (byteAt bytes (bytes.length - 1))) := by
    have hoff : 3 + (bytes.length - 6) = bytes.length - 3 := by omega
    rw [List.drop_drop, hoff, drop_sub_three (by omega), be16_fromBe16]
  calc _ = bytes.take 3 ++ (bytes.drop 3).take (bytes.length - 6) ++ (bytes.drop 3).drop (bytes.length - 6) := by
        rw [hhead, htail]
        rfl
    _ = bytes := by rw [List.append_assoc, List.take_append_drop, List.take_append_drop]

end Sys2Proof.Machine

namespace Sys2Proof

open Sys2Proof.Machine

/-! ### The decoder on each format -/

@[simp] theorem decode_op_of_wellFormed {maxChunk : Option Nat} {i : Instr} (h : i.wellFormed maxChunk = true) :
    decode maxChunk (.op i) = .ok i := if_pos h

theorem decode_op_eq_ok {maxChunk : Option Nat} {i j : Instr} (h : decode maxChunk (.op j) = .ok i) :
    i = j ∧ j.wellFormed maxChunk = true := by
  simp only [decode] at h
  split at h
  · cases h
    exact ⟨rfl, ‹_›⟩
  · cases h

/-- A control reply on the wire is read by its kind (R85, R91). -/
theorem decode_ctrl (maxChunk : Option Nat) (kind : Byte) (num : U16) :
    decode maxChunk (.wire .ctrl (serCtrl kind num)) = .ok (decodeCtrl kind num) := by
  have hread := readCtrl_serCtrl kind num []
  rw [List.append_nil] at hread
  simp only [decode, decodeWire, hread]

/-- In the handshake phase the same bytes are read as a reply (R84, R245). -/
theorem decode_hsr (maxChunk : Option Nat) (kind : Byte) (num : U16) :
    decode maxChunk (.wire .hsr (serCtrl kind num)) = .ok (decodeReply kind num) := by
  have hread := readCtrl_serCtrl kind num []
  rw [List.append_nil] at hread
  simp only [decode, decodeWire, hread]

theorem decode_hs (maxChunk : Option Nat) (n w : I32) :
    decode maxChunk (.wire .hs (serHs n w)) = .ok (.hs n w) := by
  have hread := readHs_serHs n w []
  rw [List.append_nil] at hread
  simp only [decode, decodeWire, hread]

theorem decode_env (maxChunk : Option Nat) (idx : U16) (last : Byte) {frame : Bytes} (h : lenFits frame = true) :
    decode maxChunk (.wire .env (be32 (lenField frame) ++ be16 idx ++ [last] ++ frame)) =
      .ok (.env idx last frame) := by
  have hread := readEnv_envelope idx last [] h
  rw [List.append_nil] at hread
  simp only [decode, decodeWire, hread]

/-- The bytes of a frame are read as the row FRAME with the fields they were laid out from (R81). -/
theorem decode_frame (maxChunk : Option Nat) (body : Bytes) (etx : Byte) (csum : U16) :
    decode maxChunk (.wire .frame (frameBytes body etx csum)) = .ok (.frame body etx csum) := by
  have htrailer := byteAt_frameBytes_trailer body etx csum
  have hetx : byteAt (frameBytes body etx csum) (body.length + 6 - 3) = etx := htrailer 0
  have hhi : byteAt (frameBytes body etx csum) (body.length + 6 - 2) = csum.extractLsb' 8 8 := htrailer 1
  have hlo : byteAt (frameBytes body etx csum) (body.length + 6 - 1) = csum.extractLsb' 0 8 := htrailer 2
  have hhead : Config.minFrame ≤ (frameBytes body etx csum).length ∧
      (frameBytes body etx csum).take 3 = [Config.sync, Config.sync, Config.stx] := by
    simp [Config.minFrame, frameBytes]
  have hrow : decodeFrameRow (frameBytes body etx csum) = .frame body etx csum := by
    rw [decodeFrameRow, if_pos hhead, frameBytes_length, Nat.add_sub_cancel, body_of_frameBytes, hetx, hhi, hlo,
      fromBe16_be16]
  simp only [decode, decodeWire, hrow]

/-- A reserved kind is read as such (R91). -/
theorem decodeCtrl_of_reserved {kind : Byte} (h : kindReserved kind = true) (num : U16) :
    decodeCtrl kind num = .ctrlRsvd kind num := by
  simp only [kindReserved, Bool.and_eq_true, decide_eq_true_iff] at h
  rw [decodeCtrl, if_neg h.1, if_neg h.2]

/-! ### The encoder on what was decoded -/

/-- A control reply in any phase is encoded in the format of its row, well formed (R85, R91). -/
theorem encode_decodeCtrl (maxChunk : Option Nat) (kind : Byte) (num : U16) :
    (decodeCtrl kind num).wellFormed maxChunk = true ∧
      encode (decodeCtrl kind num) = .wire .ctrl (serCtrl kind num) := by
  unfold decodeCtrl
  split
  · subst kind
    exact ⟨rfl, rfl⟩
  · split
    · subst kind
      exact ⟨rfl, rfl⟩
    · exact ⟨by simp [Instr.wellFormed, kindReserved, *], rfl⟩

/-- A frame without an envelope is the row FRAME with its bytes, or goes whole to `DECODE` (R81; notes/assumptions/9.md). -/
theorem encode_decodeFrameRow (maxChunk : Option Nat) (bytes : Bytes) :
    (decodeFrameRow bytes).wellFormed maxChunk = true ∧
      (encode (decodeFrameRow bytes) = .wire .frame bytes ∨
        decodeFrameRow bytes = .decode bytes ∧ (bytes.length < 6 ∨ bytes.take 3 ≠ [0x16, 0x16, 0x02])) := by
  unfold decodeFrameRow
  split
  · rename_i h
    exact ⟨rfl, .inl (congrArg (Item.wire .frame) (frameBytes_of_header h.1 h.2))⟩
  · rename_i h
    refine ⟨rfl, .inr ⟨rfl, ?_⟩⟩
    rw [not_and_or, Nat.not_le] at h
    exact h

/-- What bytes of one format decode to is well formed, and its encoding is the bytes again, but for the two exceptions
(R93, R245; notes/assumptions/9.md). -/
theorem encode_of_decodeWire {fmt : Format} {bytes : Bytes} {i : Instr} (maxChunk : Option Nat)
    (h : decodeWire fmt bytes = .ok i) :
    i.wellFormed maxChunk = true ∧
      (encode i = .wire fmt bytes ∨ (fmt = .hsr ∧ bytes.head? ≠ some 0x06 ∧ encode i = .wire .ctrl bytes) ∨
        (fmt = .frame ∧ i = .decode bytes ∧ (bytes.length < 6 ∨ bytes.take 3 ≠ [0x16, 0x16, 0x02]))) := by
  cases fmt with
  | frame =>
    obtain rfl : decodeFrameRow bytes = i := by simpa [decodeWire] using h
    obtain ⟨hwf, henc | hrest⟩ := encode_decodeFrameRow maxChunk bytes
    · exact ⟨hwf, .inl henc⟩
    · exact ⟨hwf, .inr (.inr ⟨rfl, hrest⟩)⟩
  | env =>
    simp only [decodeWire] at h
    split at h
    · rename_i idx last frame hread
      cases h
      obtain ⟨hfits, rfl⟩ := eq_envelope_of_readEnv hread
      exact ⟨rfl, .inl (by simp [encode, hfits])⟩
    · cases h
    · cases h
  | hs =>
    simp only [decodeWire] at h
    split at h
    · rename_i n w hread
      cases h
      obtain rfl := eq_serHs_of_readHs hread
      exact ⟨rfl, .inl (by simp [encode, serHs])⟩
    · cases h
    · cases h
  | hsr =>
    simp only [decodeWire] at h
    split at h
    · rename_i kind num hread
      cases h
      obtain rfl := eq_serCtrl_of_readCtrl hread
      rw [List.append_nil, decodeReply]
      split
      · subst kind
        exact ⟨rfl, .inl rfl⟩
      · rename_i hkind
        obtain ⟨hwf, henc⟩ := encode_decodeCtrl maxChunk kind num
        exact ⟨hwf, .inr (.inl ⟨rfl, fun e => hkind (Option.some.inj e), henc⟩)⟩
    · cases h
    · cases h
  | ctrl =>
    simp only [decodeWire] at h
    split at h
    · rename_i kind num hread
      cases h
      obtain rfl := eq_serCtrl_of_readCtrl hread
      rw [List.append_nil]
      obtain ⟨hwf, henc⟩ := encode_decodeCtrl maxChunk kind num
      exact ⟨hwf, .inl henc⟩
    · cases h
    · cases h

end Sys2Proof

namespace Sys2Proof.Machine

/-! ### The obligations about encoding -/

/-- Settles O1: a wire row by what its format reads from the bytes it was laid out in; any other row, and an envelope
without bytes, stands for itself. -/
theorem encodeThenDecode : Obligations.EncodeThenDecode := by
  intro maxChunk i h
  cases i
  case frame body etx csum => exact decode_frame maxChunk body etx csum
  case env idx last frame =>
    by_cases hfits : lenFits frame = true
    · rw [encode, if_pos hfits]
      exact decode_env maxChunk idx last hfits
    · rw [encode, if_neg hfits]
      exact decode_op_of_wellFormed h
  case hs n w => exact decode_hs maxChunk n w
  case hsack p => exact decode_hsr maxChunk Config.ackKind p
  case ack num => exact decode_ctrl maxChunk Config.ackKind num
  case nak num => exact decode_ctrl maxChunk Config.nakKind num
  case ctrlRsvd kind num => exact (decode_ctrl maxChunk kind num).trans (congrArg _ (decodeCtrl_of_reserved h num))
  all_goals exact decode_op_of_wellFormed h

/-- Settles O2: an operation by `decode_op_eq_ok`, bytes by `encode_of_decodeWire`. -/
theorem decodeThenEncode : Obligations.DecodeThenEncode := by
  intro maxChunk it i h
  cases it with
  | op j =>
    obtain ⟨rfl, hwf⟩ := decode_op_eq_ok h
    exact ⟨hwf, fun k hk => Item.op.inj hk, fun fmt bytes hw => nomatch hw⟩
  | wire fmt bytes =>
    obtain ⟨hwf, henc⟩ := encode_of_decodeWire maxChunk h
    refine ⟨hwf, fun k hk => (nomatch hk), fun fmt' bytes' hw => ?_⟩
    obtain ⟨rfl, rfl⟩ := Item.wire.inj hw
    exact henc

/-- Settles O3: the words are read by evaluation. -/
theorem tableWordsDecode : Obligations.TableWordsDecode := by
  refine ⟨?_, ?_, ?_, ?_, ?_, ?_, ?_⟩ <;> decide

/-! ### Serialisers and parsers -/

theorem be16_eq (v : U16) : be16 v = [BitVec.ofNat 8 (v.toNat / 256), BitVec.ofNat 8 v.toNat] := by
  rw [be16, high_byte_eq, low_byte_eq]

theorem be32_eq (v : I32) :
    be32 v = [BitVec.ofNat 8 (v.toNat / 2 ^ 24), BitVec.ofNat 8 (v.toNat / 2 ^ 16),
      BitVec.ofNat 8 (v.toNat / 2 ^ 8), BitVec.ofNat 8 v.toNat] := by
  have hbyte (k : Nat) : v.extractLsb' k 8 = BitVec.ofNat 8 (v.toNat / 2 ^ k) := by
    apply BitVec.eq_of_toNat_eq
    simp [BitVec.extractLsb'_toNat, Nat.shiftRight_eq_div_pow]
  rw [be32, hbyte, hbyte, hbyte, hbyte, pow_zero, Nat.div_one]

theorem serCtrl_eq (kind : Byte) (num : U16) :
    serCtrl kind num = [kind, BitVec.ofNat 8 (num.toNat / 256), BitVec.ofNat 8 num.toNat] := by
  rw [serCtrl, be16_eq]

/-- Settles O39: the layouts by `be16_eq` and `be32_eq`, the parsers by the round trips of Laws/Wire. -/
theorem serialisersAndParsersAgree : Obligations.SerialisersAndParsersAgree := by
  intro kind b num idx n w last frame rest s
  have hlen (h : frame.length < 2 ^ 32) : be32 (lenField frame) =
      [BitVec.ofNat 8 (frame.length / 2 ^ 24), BitVec.ofNat 8 (frame.length / 2 ^ 16),
        BitVec.ofNat 8 (frame.length / 2 ^ 8), BitVec.ofNat 8 frame.length] := by
    rw [be32_eq, lenField_toNat (decide_eq_true h)]
  refine ⟨?serCtrl, ?parseCtrl, fun h => ?serEnv, ⟨lenField frame, ?envelope⟩, fun h => ?parseEnv, rfl, ?parseHs,
    be32_eq n⟩
  case serCtrl =>
    rw [← serCtrl_eq]
    rfl
  case parseCtrl =>
    have hread := readCtrl_serCtrl kind num []
    rw [List.append_nil, serCtrl_eq] at hread
    change Host.Outcome.next (s.setRet (parseCtrlRet _)) = _
    rw [parseCtrlRet, hread]
    rfl
  case serEnv =>
    change Host.Outcome.next (s.setRet (.bytes (serEnv idx last frame))) = _
    rw [serEnv, hlen h, be16_eq]
    rfl
  case envelope =>
    change Host.Outcome.next (s.setRet (.bytes (serEnv idx last frame))) = _
    rw [serEnv, be16_eq, List.append_assoc (be32 _)]
    rfl
  case parseEnv =>
    have hread := readEnv_envelope idx b rest (decide_eq_true h : lenFits frame = true)
    rw [hlen h, be16_eq] at hread
    change Host.Outcome.next (s.setRet (parseEnvRet _)) = _
    rw [parseEnvRet]
    simp only [List.cons_append, List.nil_append] at hread ⊢
    rw [hread]
    rfl
  case parseHs =>
    have hread := readHs_serHs n w []
    rw [List.append_nil] at hread
    change Host.Outcome.next (s.setRet (parseHsRet (serHs n w))) = _
    rw [parseHsRet, hread]
    rfl

end Sys2Proof.Machine
end

section
/-!
PROOFS. The Frame Codec, second part: lengths, the checksum as a folded total and what it does and does not see, every
failure of `DECODE`, the byte-serial codec, and the obligations about them (R122, R123, R125, R129 to R131, R133).
-/

-- The proofs one after the other: side by side, those of the whole text need more memory than the check allows.
set_option Elab.async false

namespace Sys2Proof.Machine

/-! ### Lengths -/

/-- Every reserved byte gets one escape and no other byte does (R130). -/
theorem stuff_length (x : Bytes) : (stuff x).length = x.length + x.countP reserved := by
  induction x with
  | nil => rfl
  | cons b r ih =>
    by_cases h : reserved b = true
    · rw [stuff_cons_of_reserved h, List.countP_cons_of_pos h, List.length_cons, List.length_cons, List.length_cons, ih]
      omega
    · rw [stuff_cons_of_not_reserved h, List.countP_cons_of_neg h, List.length_cons, List.length_cons, ih]
      omega

theorem encodeFrame_length (c : Bytes) : (encodeFrame c).length = c.length + c.countP reserved + 6 := by
  rw [encodeFrame, frameBytes_length, stuff_length]

/-! ### The checksum -/

/-- A total of words folded into 16 bits: 0 stays 0, any other total is taken modulo 0xFFFF into 1 .. 0xFFFF (R123). -/
def foldedTotal (t : Nat) : Nat := if t = 0 then 0 else (t - 1) % 0xFFFF + 1

theorem foldedTotal_le (t : Nat) : foldedTotal t ≤ 0xFFFF := by
  unfold foldedTotal
  split <;> omega

/-- Any total but 0 folds to the same number with 0xFFFF more. -/
theorem foldedTotal_add_modulus {t : Nat} (h : t ≠ 0) : foldedTotal (t + 0xFFFF) = foldedTotal t := by
  unfold foldedTotal
  split_ifs <;> omega

/-- The end-around carry folds the total as it grows (R123). -/
theorem csumAdd_foldedTotal (t : Nat) {w : Nat} (h : w ≤ 0xFFFF) : csumAdd (foldedTotal t) w = foldedTotal (t + w) := by
  unfold csumAdd foldedTotal
  split_ifs <;> omega

theorem csumFold_foldedTotal (t : Nat) (y : Bytes) : csumFold (foldedTotal t) y = foldedTotal (t + wordTotal y) := by
  induction y using wordTotal.induct generalizing t with
  | case1 => rfl
  | case2 hi =>
    have := hi.isLt
    rw [csumFold, wordTotal, csumAdd_foldedTotal t (by omega)]
  | case3 hi lo r ih =>
    have := hi.isLt
    have := lo.isLt
    rw [csumFold, wordTotal, csumAdd_foldedTotal t (by omega), ih, Nat.add_assoc]

/-- CSUM16 is the complement of the folded total (R123). -/
theorem csum16_toNat (y : Bytes) : (csum16 y).toNat = 0xFFFF - foldedTotal (wordTotal y) := by
  have hfold : csumFold 0 y = foldedTotal (wordTotal y) := by
    simpa [foldedTotal] using csumFold_foldedTotal 0 y
  rw [csum16, hfold, BitVec.toNat_ofNat]
  omega

/-- Two bodies have the same checksum exactly when their totals fold to the same number. -/
theorem csum16_eq_iff {y z : Bytes} : csum16 y = csum16 z ↔ foldedTotal (wordTotal y) = foldedTotal (wordTotal z) := by
  have hy := foldedTotal_le (wordTotal y)
  have hz := foldedTotal_le (wordTotal z)
  rw [← BitVec.toNat_inj, csum16_toNat, csum16_toNat]
  omega

/-- Behind a whole number of words the words of the rest are counted as on their own (R62). -/
theorem wordTotal_append {a : Bytes} (h : a.length % 2 = 0) (d : Bytes) :
    wordTotal (a ++ d) = wordTotal a + wordTotal d := by
  induction a using wordTotal.induct with
  | case1 => simp [wordTotal]
  | case2 hi => simp at h
  | case3 hi lo r ih =>
    have hr : r.length % 2 = 0 := by
      simp only [List.length_cons] at h
      omega
    rw [List.cons_append, List.cons_append, wordTotal, wordTotal, ih hr]
    omega

/-- The weight of the byte at an offset of a body in its word: offsets count from the first body byte (R62). -/
def byteWeight (k : Nat) : Nat := if k % 2 = 0 then 256 else 1

theorem byteWeight_add_two (k : Nat) : byteWeight (k + 2) = byteWeight k := by
  rw [byteWeight, Nat.add_mod_right]
  rfl

/-- One byte more adds its value at its weight. -/
theorem wordTotal_concat (y : Bytes) (v : Byte) :
    wordTotal (y ++ [v]) = wordTotal y + byteWeight y.length * v.toNat := by
  induction y using wordTotal.induct with
  | case1 => simp [wordTotal, byteWeight, Nat.mul_comm]
  | case2 hi => simp [wordTotal, byteWeight]
  | case3 hi lo r ih =>
    rw [List.cons_append, List.cons_append, wordTotal, wordTotal, ih, List.length_cons, List.length_cons,
      byteWeight_add_two]
    omega

/-- A byte replaced changes the total by the difference at its weight. -/
theorem wordTotal_set (y : Bytes) {k : Nat} (b : Byte) (h : k < y.length) :
    wordTotal (y.set k b) + byteWeight k * (y.getD k 0).toNat = wordTotal y + byteWeight k * b.toNat := by
  induction y using wordTotal.induct generalizing k with
  | case1 => simp at h
  | case2 hi =>
    obtain rfl : k = 0 := by simpa using h
    simp [wordTotal, byteWeight]
    omega
  | case3 hi lo r ih =>
    match k with
    | 0 =>
      simp [wordTotal, byteWeight]
      omega
    | 1 =>
      simp [wordTotal, byteWeight]
      omega
    | k + 2 =>
      have hr := ih (k := k) (by simpa using h)
      simp only [List.set_cons_succ, List.getD_cons_succ, wordTotal, byteWeight_add_two]
      omega

/-- The checksum sees the replacement of one byte: the totals differ by less than 0xFFFF (R129). -/
theorem csum16_set_ne {y : Bytes} {k : Nat} {b : Byte} (h : k < y.length) (hb : b ≠ y.getD k 0) :
    csum16 (y.set k b) ≠ csum16 y := by
  have hset := wordTotal_set y b h
  have hne : b.toNat ≠ (y.getD k 0).toNat := fun e => hb (BitVec.eq_of_toNat_eq e)
  have hnew := b.isLt
  have hold := (y.getD k 0).isLt
  intro e
  have htotal := csum16_eq_iff.1 e
  unfold foldedTotal at htotal
  unfold byteWeight at hset
  split_ifs at hset htotal <;> omega

/-! ### Decoding: the failures -/

theorem tooLong_eq_true_iff {maxChunk : Option Nat} {len : Nat} :
    tooLong maxChunk len = true ↔ ∃ k ∈ maxChunk, 6 + 2 * k < len := by
  cases maxChunk with
  | none => simp [tooLong]
  | some k => simp [tooLong]

theorem decodeFrame_of_short (maxChunk : Option Nat) {f : Bytes} (h : f.length < 6) :
    decodeFrame maxChunk f = structuralFailure .tooShort := by
  exact if_pos h

theorem decodeFrame_of_tooLong {maxChunk : Option Nat} {f : Bytes} (hmin : 6 ≤ f.length)
    (hlong : tooLong maxChunk f.length = true) : decodeFrame maxChunk f = structuralFailure .tooLong := by
  exact (if_neg (Nat.not_lt.2 hmin)).trans (if_pos hlong)

/-- The header test of `DECODE` looks at the first three bytes (R125). -/
theorem header_ne_iff {f : Bytes} (hmin : 6 ≤ f.length) :
    (byteAt f 0 ≠ Config.sync ∨ byteAt f 1 ≠ Config.sync ∨ byteAt f 2 ≠ Config.stx) ↔
      f.take 3 ≠ [0x16, 0x16, 0x02] := by
  match f, hmin with
  | x :: y :: z :: r, _ =>
    simp only [byteAt, List.getD_cons_zero, List.getD_cons_succ, List.take_succ_cons, List.take_zero, ne_eq,
      List.cons.injEq, and_true]
    change ¬x = 0x16 ∨ ¬y = 0x16 ∨ ¬z = 0x02 ↔ _
    tauto

theorem decodeFrame_of_header {maxChunk : Option Nat} {f : Bytes} (hmin : 6 ≤ f.length)
    (hlong : tooLong maxChunk f.length = false) (hhead : f.take 3 ≠ [0x16, 0x16, 0x02]) :
    decodeFrame maxChunk f = structuralFailure .badHeader := by
  exact (if_neg (Nat.not_lt.2 hmin)).trans ((if_neg (by simp [hlong])).trans (if_pos ((header_ne_iff hmin).2 hhead)))

theorem decodeFrame_of_trailer {maxChunk : Option Nat} {body : Bytes} {etx : Byte} (csum : U16)
    (hlong : tooLong maxChunk (body.length + 6) = false) (hetx : etx ≠ Config.etx) :
    decodeFrame maxChunk (frameBytes body etx csum) = structuralFailure .badTrailer := by
  obtain ⟨h0, h1, h2⟩ := byteAt_frameBytes_header body etx csum
  have hbyte : byteAt (frameBytes body etx csum) (body.length + 6 - 3) = etx :=
    byteAt_frameBytes_trailer body etx csum 0
  have hmin : ¬ body.length + 6 < Config.minFrame := by simp [Config.minFrame]
  simp only [decodeFrame, frameBytes_length, hmin, hlong, h0, h1, h2, hbyte, hetx, ne_eq, not_true_eq_false, or_self,
    if_false, if_true, Bool.false_eq_true, not_false_eq_true]

/-- Header, body, end marker and two more bytes are a frame with those two as its checksum (R65). -/
theorem frameBytes_fromBe16 (body : Bytes) (etx hi lo : Byte) :
    [0x16, 0x16, 0x02] ++ body ++ [etx, hi, lo] = frameBytes body etx (fromBe16 hi lo) := by
  change _ = [Config.sync, Config.sync, Config.stx] ++ body ++ (etx :: be16 (fromBe16 hi lo))
  rw [be16_fromBe16]
  rfl

theorem toNat_fromBe16 (hi lo : Byte) : (fromBe16 hi lo).toNat = hi.toNat * 256 + lo.toNat := by
  have := hi.isLt
  have := lo.isLt
  rw [fromBe16, BitVec.toNat_ofNat]
  omega

/-- A body of at most `2 * MAX_CHUNK` bytes gives a frame within `MAX_FRAME` (R130). -/
theorem tooLong_body {maxChunk : Option Nat} {body : Bytes} (h : ∀ k ∈ maxChunk, body.length ≤ 2 * k) :
    tooLong maxChunk (body.length + 6) = false := by
  rw [tooLong_eq_false_iff]
  intro k hk
  have := h k hk
  omega

/-! ### One byte replaced -/

/-- A frame with one byte replaced, by the place of that byte (R65). -/
theorem set_frameBytes (body : Bytes) (etx b : Byte) (csum : U16) {k : Nat} (hk : 3 ≤ k) :
    (k < body.length + 3 → (frameBytes body etx csum).set k b = frameBytes (body.set (k - 3) b) etx csum) ∧
    (k = body.length + 3 → (frameBytes body etx csum).set k b = frameBytes body b csum) ∧
    (k = body.length + 4 → (frameBytes body etx csum).set k b =
      frameBytes body etx (fromBe16 b (csum.extractLsb' 0 8))) ∧
    (k = body.length + 5 → (frameBytes body etx csum).set k b =
      frameBytes body etx (fromBe16 (csum.extractLsb' 8 8) b)) := by
  obtain ⟨j, rfl⟩ : ∃ j, k = j + 3 := ⟨k - 3, by omega⟩
  have hset : (frameBytes body etx csum).set (j + 3) b = [Config.sync, Config.sync, Config.stx] ++
      (body ++ [etx, csum.extractLsb' 8 8, csum.extractLsb' 0 8]).set j b := by
    simp [frameBytes]
  rw [hset]
  refine ⟨fun h => ?body, fun h => ?etx, fun h => ?hi, fun h => ?lo⟩
  case body =>
    rw [List.set_append_left _ _ (by omega)]
    simp [frameBytes]
  case etx =>
    obtain rfl : j = body.length := by omega
    rw [List.set_append_right _ _ le_rfl, Nat.sub_self]
    simp [frameBytes]
  case hi =>
    obtain rfl : j = body.length + 1 := by omega
    rw [List.set_append_right _ _ (by omega), Nat.add_sub_cancel_left, ← frameBytes_fromBe16, List.append_assoc]
    rfl
  case lo =>
    obtain rfl : j = body.length + 2 := by omega
    rw [List.set_append_right _ _ (by omega), Nat.add_sub_cancel_left, ← frameBytes_fromBe16, List.append_assoc]
    rfl

theorem getD_frameBytes_body (body : Bytes) (etx : Byte) (csum : U16) {k : Nat} (hk : k < body.length) :
    (frameBytes body etx csum).getD (k + 3) 0 = body.getD k 0 := by
  simp [frameBytes, List.getD_eq_getElem?_getD, List.getElem?_append_left hk]

/-- With the right markers, a checksum that is not the body's makes the frame `BAD_CHECKSUM` (R125). -/
theorem decodeFrame_of_checksum {maxChunk : Option Nat} {body : Bytes} {csum : U16}
    (hlong : tooLong maxChunk (body.length + 6) = false) (hne : csum16 body ≠ csum) :
    decodeFrame maxChunk (frameBytes body Config.etx csum) =
      { chunk := unstuff body, valid := false, status := .badChecksum } := by
  rw [decodeFrame_frameBytes csum hlong, if_neg hne]

/-- Two checksums with another high byte, or another low byte, differ (R86). -/
theorem ne_fromBe16 {csum : U16} {hi lo : Byte} (h : hi ≠ csum.extractLsb' 8 8 ∨ lo ≠ csum.extractLsb' 0 8) :
    csum ≠ fromBe16 hi lo := by
  intro e
  have hbytes : be16 csum = [hi, lo] := by rw [e, be16_fromBe16]
  simp only [be16, List.cons.injEq, and_true] at hbytes
  rcases h with h | h
  · exact h hbytes.1.symm
  · exact h hbytes.2.symm

/-- A frame with one byte replaced is invalid, with the status of the place (R129). -/
theorem decodeFrame_set {maxChunk : Option Nat} {body : Bytes} {k : Nat} {b : Byte}
    (hlong : tooLong maxChunk (body.length + 6) = false) (hk : k < body.length + 6)
    (hb : b ≠ (frameBytes body Config.etx (csum16 body)).getD k 0) :
    ∃ x, decodeFrame maxChunk ((frameBytes body Config.etx (csum16 body)).set k b) =
      { chunk := x, valid := false, status :=
          if k < 3 then .badHeader else if k = body.length + 3 then .badTrailer else .badChecksum } := by
  have htrailer := byteAt_frameBytes_trailer body Config.etx (csum16 body)
  rcases Nat.lt_or_ge k 3 with h3 | h3
  · have hhead : ((frameBytes body Config.etx (csum16 body)).set k b).take 3 ≠ [0x16, 0x16, 0x02] := by
      intro e
      have hk' : (((frameBytes body Config.etx (csum16 body)).set k b).take 3).getD k 0 = b := by
        simp [List.getD_eq_getElem?_getD, h3]
      have hold : (frameBytes body Config.etx (csum16 body)).getD k 0 = [(0x16 : Byte), 0x16, 0x02].getD k 0 := by
        interval_cases k <;> rfl
      rw [e] at hk'
      exact hb (hk'.symm.trans hold.symm)
    refine ⟨[], ?_⟩
    rw [decodeFrame_of_header (by simp) (by simpa using hlong) hhead, if_pos h3]
    rfl
  obtain ⟨hbody, hetx, hhi, hlo⟩ := set_frameBytes body Config.etx b (csum16 body) h3
  rw [if_neg (Nat.not_lt.2 h3)]
  rcases Nat.lt_trichotomy k (body.length + 3) with hlt | heq | hgt
  · rw [if_neg (Nat.ne_of_lt hlt), hbody hlt]
    have hj : k - 3 < body.length := by omega
    have hne : b ≠ body.getD (k - 3) 0 := by
      rwa [← getD_frameBytes_body body Config.etx (csum16 body) hj, Nat.sub_add_cancel h3]
    exact ⟨_, decodeFrame_of_checksum (by simpa using hlong) (csum16_set_ne hj hne)⟩
  · rw [if_pos heq, hetx heq]
    refine ⟨[], decodeFrame_of_trailer _ hlong ?_⟩
    rw [heq] at hb
    exact fun e => hb (e.trans (htrailer 0).symm)
  · rw [if_neg (Nat.ne_of_gt hgt)]
    obtain h4 | h5 : k = body.length + 4 ∨ k = body.length + 5 := by omega
    · rw [hhi h4]
      rw [h4] at hb
      exact ⟨_, decodeFrame_of_checksum hlong (ne_fromBe16 (.inl fun e => hb (e.trans (htrailer 1).symm)))⟩
    · rw [hlo h5]
      rw [h5] at hb
      exact ⟨_, decodeFrame_of_checksum hlong (ne_fromBe16 (.inr fun e => hb (e.trans (htrailer 2).symm)))⟩

/-! ### The byte-serial codec -/

/-- The accumulator and the phase of a streaming codec after the body bytes `y` (R131). -/
structure Absorbed (r : Stream) (y : Bytes) : Prop where
  acc : r.acc = foldedTotal (wordTotal y)
  phase : r.phase = decide (y.length % 2 = 1)

theorem absorbed_start : Absorbed streamStart [] := ⟨rfl, rfl⟩

theorem Absorbed.out {r : Stream} {y : Bytes} (h : Absorbed r y) (v : Byte) : Absorbed (streamOut r v) y :=
  ⟨h.acc, h.phase⟩

/-- "add `v`" extends the body absorbed by `v` (R131). -/
theorem Absorbed.add {r : Stream} {y : Bytes} (h : Absorbed r y) (v : Byte) : Absorbed (streamAdd r v) (y ++ [v]) := by
  have hv := v.isLt
  have hvalue : (if r.phase then v.toNat else v.toNat * 256) = byteWeight y.length * v.toNat := by
    rw [h.phase, byteWeight]
    rcases Nat.mod_two_eq_zero_or_one y.length with e | e <;> simp [e, Nat.mul_comm]
  have hle : byteWeight y.length * v.toNat ≤ 0xFFFF := by
    rw [← hvalue]
    split <;> omega
  refine ⟨?acc, ?phase⟩
  case acc =>
    change csumAdd r.acc (if r.phase then v.toNat else v.toNat * 256) = _
    rw [hvalue, h.acc, csumAdd_foldedTotal _ hle, wordTotal_concat]
  case phase =>
    change (!r.phase) = _
    rw [h.phase, List.length_append, List.length_singleton]
    rcases Nat.mod_two_eq_zero_or_one y.length with e | e <;> simp [Nat.add_mod, e]

theorem Absorbed.checksum {r : Stream} {y : Bytes} (h : Absorbed r y) : streamChecksum r = csum16 y := by
  apply BitVec.eq_of_toNat_eq
  rw [streamChecksum, h.acc, csum16_toNat, BitVec.toNat_ofNat]
  omega

theorem stuff_concat (c : Bytes) (b : Byte) :
    stuff (c ++ [b]) = if reserved b then stuff c ++ [Config.esc] ++ [b] else stuff c ++ [b] := by
  have hcat : stuff (c ++ [b]) = stuff c ++ stuff [b] := by
    rw [stuff_eq_flatMap, stuff_eq_flatMap, stuff_eq_flatMap, List.flatMap_append]
  rw [hcat, stuff]
  split <;> simp [stuff]

/-- The encoder has put out and absorbed the stuffed chunk (R131). -/
theorem streamEncode_spec (c : Bytes) : (streamEncode c).out = stuff c ∧ Absorbed (streamEncode c) (stuff c) := by
  induction c using List.reverseRecOn with
  | nil => exact ⟨rfl, absorbed_start⟩
  | append_singleton c b ih =>
    obtain ⟨hout, habs⟩ := ih
    have hstep : streamEncode (c ++ [b]) = streamEncodeByte (streamEncode c) b := by
      simp [streamEncode, List.foldl_append]
    rw [hstep, stuff_concat, streamEncodeByte]
    split
    · refine ⟨?_, (((habs.out _).add _).out _).add b⟩
      change (streamEncode c).out ++ [Config.esc] ++ [b] = _
      rw [hout]
    · refine ⟨?_, (habs.out _).add b⟩
      change (streamEncode c).out ++ [b] = _
      rw [hout]

/-- Whatever it puts out, the decoder absorbs the byte it reads (R131). -/
theorem Absorbed.decodeByte {r : Stream} {y : Bytes} (h : Absorbed r y) (b : Byte) :
    Absorbed (streamDecodeByte r b) (y ++ [b]) := by
  have hadd := h.add b
  unfold streamDecodeByte
  simp only
  split_ifs <;> exact ⟨hadd.acc, hadd.phase⟩

theorem absorbed_streamDecode (y : Bytes) : Absorbed (streamDecode y) y := by
  induction y using List.reverseRecOn with
  | nil => exact absorbed_start
  | append_singleton y b ih =>
    have hstep : streamDecode (y ++ [b]) = streamDecodeByte (streamDecode y) b := by
      simp [streamDecode, List.foldl_append]
    rw [hstep]
    exact ih.decodeByte b

/-- What the decoder puts out of `y` from any state: `UNSTUFF` of `y`, a pending escape counting as a byte before it
(R122, R131). -/
theorem streamDecode_out_from (y : Bytes) (r : Stream) :
    (y.foldl streamDecodeByte r).out = r.out ++ unstuff (if r.escp then Config.esc :: y else y) := by
  induction y generalizing r with
  | nil => cases h : r.escp <;> simp [unstuff]
  | cons b y ih =>
    rw [List.foldl_cons, ih]
    cases h : r.escp with
    | true => simp [streamDecodeByte, streamAdd, streamOut, h, unstuff_esc_cons]
    | false =>
      by_cases hb : b = Config.esc
      · simp [streamDecodeByte, streamAdd, h, hb]
      · simp [streamDecodeByte, streamAdd, streamOut, h, hb, unstuff_cons_of_ne_esc hb]

theorem streamDecode_out (y : Bytes) : (streamDecode y).out = unstuff y := streamDecode_out_from y streamStart

/-! ### The obligations -/

/-- Settles O19: the equations of `unstuff`. -/
theorem unstuffRemovesEscapes : Obligations.UnstuffRemovesEscapes := by
  intro y s
  exact ⟨exec_unstuff y s, rfl, rfl, unstuff_esc_cons, fun b r h => unstuff_cons_of_ne_esc h r⟩

/-- Settles O21: by `csum16_toNat`. -/
theorem checksumIsTheFoldedTotal : Obligations.ChecksumIsTheFoldedTotal := by
  intro y s
  refine ⟨csum16 y, rfl, ?_⟩
  rw [csum16_toNat, foldedTotal]
  split <;> rfl

/-- Settles O23: by `stuff_length`; a chunk has at most as many reserved bytes as bytes, and a repeated one just as
many. -/
theorem frameLengths : Obligations.FrameLengths := by
  intro c k
  have hcount : c.countP reserved ≤ c.length := List.countP_le_length
  have hall : (List.replicate k 0x10#8).countP reserved = k := by
    exact List.countP_replicate.trans (if_pos reserved_esc)
  refine ⟨stuff_length c, encodeFrame_length c, ?_, ?_, ?_, ?_, ?_⟩
  · rw [encodeFrame_length]
    omega
  · rw [encodeFrame_length]
    omega
  · rw [encodeFrame_length, hall, List.length_replicate]
    omega
  · simp [tooLong]
  · simp [tooLong]

/-- Settles O25: one lemma for each check that fails, in the order of the checks. -/
theorem decodeReportsTheFirstFailure : Obligations.DecodeReportsTheFirstFailure := by
  intro f body etx hi lo csum s
  refine ⟨fun hshort => ?short, fun hmin hlong => ?long, fun hmin hlong hhead => ?header, fun hlen hetx => ?trailer,
    fun hlen => ?checksum, ⟨_, rfl, exec_decode _ s⟩⟩
  case short =>
    rw [exec_decode, decodeFrame_of_short _ hshort]
    rfl
  case long =>
    rw [exec_decode, decodeFrame_of_tooLong hmin (tooLong_eq_true_iff.2 hlong)]
    rfl
  case header =>
    rw [exec_decode, decodeFrame_of_header hmin (tooLong_eq_false_iff.2 hlong) hhead]
    rfl
  case trailer =>
    rw [exec_decode, frameBytes_fromBe16, decodeFrame_of_trailer _ (tooLong_body hlen) hetx]
    rfl
  case checksum =>
    have hframe := decodeFrame_frameBytes (fromBe16 hi lo) (tooLong_body hlen)
    rw [exec_decode, frameBytes_fromBe16]
    change Host.Outcome.next
      { s with ret := decodedRet (decodeFrame s.par.maxChunk (frameBytes body Config.etx (fromBe16 hi lo))) } = _
    simp only [hframe, ← BitVec.toNat_inj, toNat_fromBe16]
    split <;> rfl

/-- Settles O26: by `decodeFrame_set`. -/
theorem everySingleByteChangeIsDetected : Obligations.EverySingleByteChangeIsDetected := by
  intro c k b s hfits hk hb
  have hlong : tooLong s.par.maxChunk ((stuff c).length + 6) = false := by
    apply tooLong_body
    intro m hm
    have := hfits m hm
    have := stuff_length_le c
    omega
  have hlen : (encodeFrame c).length = (stuff c).length + 6 := frameBytes_length _ _ _
  rw [hlen] at hk
  obtain ⟨x, hx⟩ := decodeFrame_set hlong hk hb
  refine ⟨x, _, ?_, rfl⟩
  have hplace : k = (stuff c).length + 3 ↔ k + 3 = (encodeFrame c).length := by omega
  rw [exec_decode, encodeFrame, hx]
  simp only [hplace]
  rfl

/-- Settles O27: the totals of the two bodies are equal, or differ by 0xFFFF and are not zero. -/
theorem checksumBlindSpots : Obligations.ChecksumBlindSpots := by
  intro a m d w x y z
  refine ⟨fun ha hm => ?swap, fun ha => ?zero, fun ha => ?pad, fun ha ht => ?ones⟩
  case swap =>
    rw [csum16_eq_iff]
    simp only [List.append_assoc, wordTotal_append ha, wordTotal_append hm, List.cons_append, List.nil_append,
      wordTotal]
    exact congrArg foldedTotal (by omega)
  case zero =>
    rw [csum16_eq_iff]
    simp [List.append_assoc, wordTotal_append ha, wordTotal]
  case pad =>
    rw [csum16_eq_iff, wordTotal_concat]
    rfl
  case ones =>
    have hones : wordTotal ([0xFF, 0xFF] ++ d) = wordTotal d + 0xFFFF := Nat.add_comm 0xFFFF (wordTotal d)
    have hzeros : wordTotal ([0, 0] ++ d) = wordTotal d := Nat.zero_add (wordTotal d)
    rw [wordTotal_append ha] at ht
    rw [csum16_eq_iff, List.append_assoc, List.append_assoc, wordTotal_append ha, wordTotal_append ha, hones, hzeros,
      ← Nat.add_assoc, foldedTotal_add_modulus ht]

/-- Settles O28: `streamEncode_spec`, `streamDecode_out` and `absorbed_streamDecode`. -/
theorem streamingCodecAgrees : Obligations.StreamingCodecAgrees := by
  intro c y
  obtain ⟨hout, habs⟩ := streamEncode_spec c
  exact ⟨hout, habs.checksum, streamDecode_out y, (absorbed_streamDecode y).checksum⟩

end Sys2Proof.Machine
end

section
/-!
PROOFS. One step, reset, and the function rows: the tracker and window queries, the window's acknowledgement and advance,
the receiver's marks, the retry budget, storage and the rows that send, with the obligations about them (R10, R11, R35,
R63, R64, R73, R99, R150 to R165, R278).
-/

-- The proofs one after the other: side by side, those of the whole text need more memory than the check allows.
set_option Elab.async false

namespace Sys2Proof.Machine

/-! ### One step -/

/-- The item presented next, if it decodes, is run with the rest left to consume (R11). -/
theorem step_of_decode_ok {s : State} {it : Item} {rest : List Item} {i : Instr} (hin : s.input = it :: rest)
    (hdec : decode s.par.maxChunk it = .ok i) : step s = exec i (s.setInput rest) := by
  simp only [step, hin, hdec]

theorem step_of_decode_error {s : State} {it : Item} {rest : List Item} {why : Reject} (hin : s.input = it :: rest)
    (hdec : decode s.par.maxChunk it = .error why) : step s = .refused (.undecodable why) := by
  simp only [step, hin, hdec]

/-- With nothing presented the block waits (R278). -/
theorem step_of_no_input {s : State} (hin : s.input = []) : step s = .next s := by
  simp only [step, hin]

/-- Settles O4: by the three lemmas above. -/
theorem stepRunsTheDecoded : Obligations.StepRunsTheDecoded := by
  intro s it rest i why
  exact ⟨step_of_decode_ok, step_of_decode_error, step_of_no_input⟩

/-! ### Reset -/

/-- Settles O5: `resetOp` writes the reset records, which are these values. -/
theorem resetWritesTheResetValues : Obligations.ResetWritesTheResetValues := fun _ => rfl

theorem withinLimit_zero (limit : Option Nat) : withinLimit limit 0 := by
  cases limit <;> simp [withinLimit]

theorem swsInv_reset (p : Params) : SwsInv p Sws.reset := by
  simpa [SwsInv, Sws.reset] using withinLimit_zero p.retryLimit

theorem swrInv_reset : SwrInv Swr.reset := by
  simp [SwrInv, Swr.reset, EntryArray.wf]

theorem srsInv_reset (p : Params) : SrsInv p Srs.reset := by
  simpa [SrsInv, Srs.reset, BitArray.wf] using withinLimit_zero p.retryLimit

theorem srrInv_reset : SrrInv Srr.reset := by
  simp [SrrInv, Srr.reset, BitArray.wf, EntryArray.wf]

/-- After `RESET` every engine is `Idle` at its reset values and no role is taken (R21, R291). -/
theorem roleInv_resetOp (s : State) : RoleInv (resetOp s) := by
  simp [RoleInv, resetOp]

/-- Settles O6: each engine's reset record has its invariants, and the arrays are empty. -/
theorem resetStateIsGood : Obligations.ResetStateIsGood := by
  intro p hp
  exact ⟨⟨hp, roleInv_resetOp State.reset, swsInv_reset p, swrInv_reset, srsInv_reset p, srrInv_reset⟩,
    reset_memory_wf⟩

/-! ### Tracker and window queries -/

/-- No bit is set exactly when the canonical list is empty (R30). -/
theorem isEmpty_iff_readBit (l : BitArray) : l.isEmpty = true ↔ ∀ j, readBit l j = false := by
  simp only [List.isEmpty_iff, List.eq_nil_iff_forall_not_mem, ← readBit_eq_true, Bool.not_eq_true]

theorem winDone_iff (e : Srs) : winDone e = true ↔ e.n ≤ e.winBase ∧ ∀ j, readBit e.outst j = false := by
  rw [winDone, Bool.and_eq_true, decide_eq_true_iff, isEmpty_iff_readBit]

theorem acked_iff (e : Srs) (i : Nat) : acked e i = true ↔ i < e.nextSeq ∧ readBit e.outst i = false := by
  rw [acked, Bool.and_eq_true, decide_eq_true_iff, Bool.not_eq_true']

/-- A byte takes a number modulo 256 of itself (R150). -/
theorem seqOf_eq (i : Nat) : seqOf i = BitVec.ofNat 8 i := by
  apply BitVec.eq_of_toNat_eq
  simp [seqOf, Config.seqMod]

/-- Settles O29: each row by the equation of its query. -/
theorem trackerQueriesAndInit : Obligations.TrackerQueriesAndInit := by
  intro idx i n w s
  refine ⟨?seqOf, ?seqInc, rfl, rfl, rfl, rfl, ⟨_, rfl, winDone_iff s.srs⟩, ⟨_, rfl, acked_iff s.srs i⟩⟩
  case seqOf => rw [← seqOf_eq]; rfl
  case seqInc => exact congrArg Host.Outcome.next (seqInc_eq s)

/-! ### The window's acknowledgement and advance -/

/-- The outstanding set after `WIN_ACK` (R155). -/
def ackedOutst (num : U16) (e : Srs) : BitArray := if winAckHit e num then clearBit e.outst num.toNat else e.outst

theorem winAck_eq (num : U16) (s : State) :
    winAck num s = { s with srs := { s.srs with outst := ackedOutst num s.srs } } := by
  unfold winAck ackedOutst
  split <;> rfl

/-- The bit of the number acknowledged is 0 if it is an index, every other bit as before (R155). -/
theorem readBit_ackedOutst (num : U16) (e : Srs) (j : Nat) :
    readBit (ackedOutst num e) j = (readBit e.outst j && !decide (j = num.toNat ∧ num.toNat < e.n)) := by
  unfold ackedOutst winAckHit
  by_cases hn : num.toNat < e.n
  · cases hbit : readBit e.outst num.toNat
    · by_cases hj : j = num.toNat
      · simp [hj, hbit]
      · simp [hj]
    · by_cases hj : j = num.toNat <;> simp [hn, hj]
  · simp [hn]

/-- Settles O31: `readBit_ackedOutst` for the acknowledgement, `advanceFrom_spec` for the advance. -/
theorem windowAckAndAdvance : Obligations.WindowAckAndAdvance := by
  intro num s
  refine ⟨⟨ackedOutst num s.srs, ?row, readBit_ackedOutst num s.srs⟩, ⟨_, rfl, ?advance⟩⟩
  case row =>
    change Host.Outcome.next ((winAck num s).setRet _) = _
    rw [winAck_eq]
    rfl
  case advance =>
    obtain ⟨hlow, hhigh, hclear, hstop⟩ :=
      advanceFrom_spec s.srs.outst (s.srs.nextSeq - s.srs.winBase) s.srs.winBase
    refine ⟨hlow, fun h => by omega, fun h => by omega, hclear, ?_⟩
    rcases hstop with h | h
    · exact .inl (by omega)
    · exact .inr h

/-! ### The receiver's marks -/

/-- `RX_MARK` is for an index in range (R160, R163). -/
theorem exec_rxMark_of_valid {idx : U16} {s : State} (h : idx.toNat < s.srr.n) (c : Bytes) :
    exec (.rxMark idx c) s = .next ((rxMark idx c s).setRet (.bool (rxMarkFirst idx s))) :=
  if_pos (decide_eq_true h)

theorem exec_nakOnce_of_valid {idx : U16} {s : State} (h : idx.toNat < s.srr.n) :
    exec (.nakOnce idx) s = .next ((nakOnce idx s).setRet (.bool (nakOnceFirst idx s))) :=
  if_pos (decide_eq_true h)

/-- A duplicate leaves the receiver as it is (R160). -/
theorem rxMark_of_dup {idx : U16} {s : State} (h : readBit s.srr.flags idx.toNat = true) (c : Bytes) :
    rxMark idx c s = s := by
  rw [rxMark, rxMarkFirst, h]
  rfl

/-- Settles O32: a first delivery by `rxMark_of_first`, a duplicate by `rxMark_of_dup`. -/
theorem markStoresFirstDelivery : Obligations.MarkStoresFirstDelivery := by
  intro idx c s hwf hidx
  refine ⟨fun hfirst => ⟨(marked idx.toNat c s.srr).flags, (marked idx.toNat c s.srr).rb, ?first, fun j => ?flags,
    fun j => readEntry_storeIfAbsent hwf idx.toNat j c⟩, fun hdup => ?dup⟩
  case first =>
    rw [exec_rxMark_of_valid hidx, rxMark_of_first hfirst, rxMarkFirst, hfirst]
    rfl
  case flags =>
    change readBit (setBit s.srr.flags idx.toNat) j = _
    rw [readBit_setBit, Bool.or_comm]
  case dup =>
    rw [exec_rxMark_of_valid hidx, rxMark_of_dup hdup, rxMarkFirst, hdup]
    rfl

theorem rxComplete_iff_all (r : Srr) :
    rxComplete r = true ↔ (r.rcount = r.n ∨ r.lastSeen = true) ∧ ∀ j < r.n, readBit r.flags j = true := by
  simp [rxComplete]

/-- Settles O33: the definition, and `Counted.rxComplete_iff` in a good state. -/
theorem completeIsAllReceived : Obligations.CompleteIsAllReceived := by
  intro s
  exact ⟨_, rfl, rxComplete_iff_all s.srr, fun hinv => (SrrInv.counted hinv).rxComplete_iff⟩

/-- `NAKSENT` after `NAK_ONCE` for an index (R162). -/
def nakMarked (l : BitArray) (i : Nat) : BitArray := if readBit l i then l else setBit l i

theorem readBit_nakMarked (l : BitArray) (i j : Nat) :
    readBit (nakMarked l i) j = (readBit l j || decide (j = i)) := by
  unfold nakMarked
  split
  · by_cases hj : j = i <;> simp [*]
  · rw [readBit_setBit, Bool.or_comm]

/-- `NAK_ONCE` sets the bit of its index and nothing else (R162). -/
theorem nakOnce_eq (idx : U16) (s : State) :
    nakOnce idx s = { s with srr := { s.srr with nakSent := nakMarked s.srr.nakSent idx.toNat } } := by
  unfold nakOnce nakOnceFirst nakMarked
  cases readBit s.srr.nakSent idx.toNat <;> rfl

/-- Settles O34: by `nakOnce_eq` and `readBit_nakMarked`. -/
theorem nakOnceTestsAndSets : Obligations.NakOnceTestsAndSets := by
  intro idx s hidx
  refine ⟨_, ?_, readBit_nakMarked s.srr.nakSent idx.toNat⟩
  rw [exec_nakOnce_of_valid hidx, nakOnce_eq]
  rfl

/-! ### The retry budget -/

theorem retrySpent_eq_true_iff {e : Sender} {s : State} : retrySpent e s = true ↔ budgetSpent s (retryOf e s) := by
  unfold retrySpent
  cases h : s.par.retryLimit <;> simp [budgetSpent, h]

theorem retrySpent_eq_false_iff {e : Sender} {s : State} : retrySpent e s = false ↔ budgetLeft s (retryOf e s) := by
  unfold retrySpent
  cases h : s.par.retryLimit <;> simp [budgetLeft, h]

/-- With budget left the register is charged and the step goes on (R164). -/
theorem retryThen_of_left {e : Sender} {s : State} (h : budgetLeft s (retryOf e s)) (go : State → Res) :
    retryThen e s go = go (setRetry e (retryOf e s + 1) s) := by
  rw [retryThen, retrySpent_eq_false_iff.2 h]
  rfl

/-- With the budget spent the step ends in the error entry (R164, R266). -/
theorem retryThen_of_spent {e : Sender} {s : State} (h : budgetSpent s (retryOf e s)) (go : State → Res) :
    retryThen e s go = .ok (raiseError (senderEngine e) .retryExhausted s) := by
  rw [retryThen, if_pos (retrySpent_eq_true_iff.2 h)]

theorem exec_retryTake (e : Sender) (s : State) : exec (.retryTake e) s = (retryThen e s .ok).outcome := rfl

/-- Settles O35: the two cases of `RETRY_TAKE`, for each sender. -/
theorem retryTakeChargesOrRaises : Obligations.RetryTakeChargesOrRaises := by
  intro s
  refine ⟨fun h => ?_, fun h => ?_, fun h => ?_, fun h => ?_⟩
  · rw [exec_retryTake, retryThen_of_left h]
    rfl
  · rw [exec_retryTake, retryThen_of_spent h]
    rfl
  · rw [exec_retryTake, retryThen_of_left h]
    rfl
  · rw [exec_retryTake, retryThen_of_spent h]
    rfl

/-! ### Storage -/

theorem exec_memRead_of_lt {a : ArrayName} {i : Nat} {s : State} (h : i < arrayLen a s) :
    exec (.memRead a i) s = .next (s.setRet (readElement a i s)) := if_pos h

theorem exec_memRead_of_le {a : ArrayName} {i : Nat} {s : State} (h : arrayLen a s ≤ i) :
    exec (.memRead a i) s = .fault (.noSuchElement a i) := if_neg (Nat.not_lt.2 h)

theorem exec_memWrite_of_lt {w : Store} {s : State} (h : storeIndex w < arrayLen (storeArray w) s) :
    exec (.memWrite w) s = .next (writeElement w s) := if_pos h

theorem idxValid_of_le {idx : U16} {s : State} (h : s.srr.n ≤ idx.toNat) : ¬ idxValid s.srr idx = true := by
  simpa [idxValid] using h

theorem sendPacket_of_le {e : Sender} {k : Nat} {s : State} (h : (senderChunks e s).length ≤ k) :
    sendPacket e k s = .error (.noSuchElement (senderArray e) k) := by
  rw [sendPacket, List.getElem?_eq_none h]

/-- Settles O36: an index in range by `exec_memRead_of_lt`; one beyond the end is a fault. -/
theorem memReadReturnsTheElement : Obligations.MemReadReturnsTheElement := by
  intro a i idx e c s
  refine ⟨fun hc => ?sws, fun hc => ?srs, fun hi => exec_memRead_of_lt hi, fun hi => ⟨exec_memRead_of_lt hi,
    exec_memRead_of_lt hi, exec_memRead_of_lt hi⟩, fun hi => exec_memRead_of_lt hi, exec_memRead_of_le,
    fun hidx => ⟨if_neg (idxValid_of_le hidx), if_neg (idxValid_of_le hidx)⟩, fun hi => ?send⟩
  case sws =>
    have hlt : i < arrayLen .swsChunk s := (List.getElem?_eq_some_iff.1 hc).1
    rw [exec_memRead_of_lt hlt, readElement, hc]
    rfl
  case srs =>
    have hlt : i < arrayLen .srsChunk s := (List.getElem?_eq_some_iff.1 hc).1
    rw [exec_memRead_of_lt hlt, readElement, hc]
    rfl
  case send =>
    change (sendPacket e i s).outcome = _
    rw [sendPacket_of_le hi]
    rfl

/-- Settles O37: the element written by the laws of the two forms of array. -/
theorem memWriteChangesOneElement : Obligations.MemWriteChangesOneElement := by
  intro i c b s hwf
  obtain ⟨hswr, hsrr, -⟩ := hwf
  exact ⟨fun hi => ⟨_, exec_memWrite_of_lt hi, fun j => readEntry_storeIfAbsent hswr i j c⟩,
    fun hi => ⟨_, exec_memWrite_of_lt hi, fun j => readEntry_storeIfAbsent hsrr i j c⟩,
    fun hi => ⟨_, exec_memWrite_of_lt hi, fun j => readBit_writeBit _ i j b⟩,
    fun hi => ⟨_, exec_memWrite_of_lt hi, fun j => readBit_writeBit _ i j b⟩,
    fun hi => ⟨_, exec_memWrite_of_lt hi, fun j => readBit_writeBit _ i j b⟩⟩

/-- With an entry `ABSENT` the result of `concat` is a free value (R73; notes/assumptions/5.md). -/
theorem concatOr_of_not_full {rb : EntryArray} {n : Nat} (h : ¬ full rb n) (s : State) :
    concatOr rb n s = (Config.freeBytes s.free, s.bumpFree) := by
  have hnone : concatFrom rb n = none := by
    rw [← Option.not_isSome_iff_eq_none, concatFrom_isSome]
    exact mt entriesPresent_iff_full.1 h
  rw [concatOr, hnone]

theorem exec_concat (r : Receiver) (n : Nat) (s : State) : exec (.concat r n) s =
    .next ((concatOr (receiverRb r s) n s).2.setRet (.bytes (concatOr (receiverRb r s) n s).1)) := rfl

theorem exec_concat_of_full {r : Receiver} {n : Nat} {s : State} (h : full (receiverRb r s) n) :
    exec (.concat r n) s = .next { s with ret := .bytes (joined (receiverRb r s) n) } := by
  rw [exec_concat, concatOr_of_full h]
  rfl

theorem exec_concat_of_not_full {r : Receiver} {n : Nat} {s : State} (h : ¬ full (receiverRb r s) n) :
    exec (.concat r n) s = .next { s with ret := .bytes (Config.freeBytes s.free), free := s.free + 1 } := by
  rw [exec_concat, concatOr_of_not_full h]
  rfl

/-- Settles O38: by whether the buffer is full. -/
theorem concatJoinsInIndexOrder : Obligations.ConcatJoinsInIndexOrder := by
  intro n s
  exact ⟨exec_concat_of_full (r := .swr), exec_concat_of_full (r := .srr),
    fun h => ⟨_, exec_concat_of_not_full (r := .swr) h⟩, fun h => ⟨_, exec_concat_of_not_full (r := .srr) h⟩⟩

/-! ### The rows that send -/

/-- The set bits of a canonical array, between two bounds, are read off in ascending order. -/
theorem filter_range'_readBit {l : BitArray} (hwf : BitArray.wf l) (lo hi : Nat) :
    (List.range' lo (hi - lo)).filter (readBit l) = l.filter fun k => decide (lo ≤ k) && decide (k < hi) := by
  apply List.Pairwise.eq_of_mem_iff (r := (· < ·))
  · exact (List.pairwise_lt_range' 1).filter _
  · exact hwf.filter _
  · intro k
    have hrange : (lo ≤ k ∧ k < lo + (hi - lo)) ↔ (lo ≤ k ∧ k < hi) := by omega
    simp only [List.mem_filter, List.mem_range'_1, readBit_eq_true, Bool.and_eq_true, decide_eq_true_iff, hrange,
      and_comm]

/-- A canonical array of bits below `n` is what a scan of the indices below `n` finds. -/
theorem filter_range_readBit {l : BitArray} (hwf : BitArray.wf l) {n : Nat} (hlt : ∀ k, readBit l k = true → k < n) :
    (List.range n).filter (readBit l) = l := by
  have hscan := filter_range'_readBit hwf 0 n
  rw [Nat.sub_zero, ← List.range_eq_range'] at hscan
  rw [hscan, List.filter_eq_self]
  intro k hk
  simpa using hlt k (readBit_eq_true.2 hk)

/-- The packets of several chunks that exist, as the term of the statements (R99). -/
theorem sendAll_eq_sent {e : Sender} {ks : List Nat} {s : State} (h : ∀ k ∈ ks, k < (senderChunks e s).length) :
    sendAll e ks s = .ok { s with tx := s.tx ++ sent (senderN e s) (senderChunks e s) ks } := by
  rw [sendAll_of_lt e ks s h, sent_eq_map_dataMessage]

theorem sendPacket_eq_sent {e : Sender} {k : Nat} {s : State} (h : k < (senderChunks e s).length) :
    sendPacket e k s = .ok { s with tx := s.tx ++ sent (senderN e s) (senderChunks e s) [k] } :=
  sendPacket_of_lt e k s h

/-- Settles O40: `SEND` by `sendPacket_eq_sent`; the outstanding set is its own ascending scan. -/
theorem sendingEmitsThePackets : Obligations.SendingEmitsThePackets := by
  intro i s
  refine ⟨fun hi => congrArg Res.outcome (sendPacket_eq_sent (e := .sws) hi),
    fun hi => congrArg Res.outcome (sendPacket_eq_sent (e := .srs) hi),
    fun hi => congrArg Res.outcome (sendPacket_eq_sent (e := .sws) hi), fun hwf hlt => ?_⟩
  rw [filter_range_readBit hwf hlt]
  exact congrArg Res.outcome (sendAll_eq_sent (e := .srs) fun k hk => hlt k (readBit_eq_true.2 hk))

/-- Settles O41: each row is one `emit`. -/
theorem messagesAreEmitted : Obligations.MessagesAreEmitted :=
  fun _ _ _ _ _ _ _ _ => ⟨rfl, rfl, rfl, rfl⟩

end Sys2Proof.Machine
end

section
/-!
PROOFS. The Stop-and-Wait engine, second part: how each of its rules answers in each case, and the obligations about its
start, its retransmissions, what a valid frame does and the hand-off (R171, R174, R175, R181 to R183, R186 to R188).
-/

-- The proofs one after the other: side by side, those of the whole text need more memory than the check allows.
set_option Elab.async false

namespace Sys2Proof.Machine

/-! ### The fields of a start -/

theorem legalN_iff {n : I32} : legalN n = true ↔ 1 ≤ n.toInt ∧ n.toInt ≤ 65536 := by
  rw [legalN, Bool.and_eq_true, decide_eq_true_iff, decide_eq_true_iff]
  rfl

theorem legalN_eq_false_iff {n : I32} : legalN n = false ↔ n.toInt ≤ 0 ∨ 65536 < n.toInt := by
  rw [← Bool.not_eq_true, legalN_iff]
  omega

theorem legalW_iff {w : I32} : legalW w = true ↔ 1 ≤ w.toInt := decide_eq_true_iff

/-! ### The sender's start -/

/-- The sender's registers after a legal start (R171). -/
def Sws.started (n : I32) (chunks : List Bytes) : Sws :=
  { st := .awaitingAck, n := n.toInt.toNat, i := 0, currSeq := 0, retry := 0, err := .none, chunk := chunks }

theorem swsStart_of_legal {n : I32} {c : Bytes} {chunks : List Bytes} {s : State} (hmode : s.mode = .none)
    (hn : legalN n = true) (hc : chunks[0]? = some c) :
    swsStart n chunks s = .ok { s with
      mode := .swTx, sws := Sws.started n chunks, tx := s.tx ++ [dataMessage n.toInt.toNat 0 c] } := by
  rw [swsStart, if_pos hmode, if_pos hn, swsSend]
  exact sendPacket_of_getElem? (e := .sws) hc

theorem swsStart_of_illegal {n : I32} {s : State} (hmode : s.mode = .none) (hn : legalN n = false)
    (chunks : List Bytes) : swsStart n chunks s =
      .ok { s with mode := .swTx, sws := { s.sws with st := .failed, err := .malformedHandshake } } := by
  rw [swsStart, if_pos hmode, if_neg (by simp [hn])]
  rfl

theorem swsStart_of_role {s : State} (hmode : s.mode ≠ .none) (n : I32) (chunks : List Bytes) :
    swsStart n chunks s = .ok s := if_neg hmode

/-- Settles O42: the three cases of `swsStart`, which row and common start both run. -/
theorem stopWaitSenderStarts : Obligations.StopWaitSenderStarts := by
  intro n c chunks s
  refine ⟨fun hmode hlow hhigh hc => ?legal, fun hmode hn => ?illegal, fun hmode => ?role⟩
  case legal =>
    have hrow := congrArg Res.outcome (swsStart_of_legal hmode (legalN_iff.2 ⟨hlow, hhigh⟩) hc)
    have hlast : isLastOf 0 n.toInt.toNat = decide (n.toInt = 1) := decide_eq_decide.2 (by omega)
    refine ⟨_, hrow, hrow, ?_⟩
    rw [dataMessage, hlast]
    rfl
  case illegal =>
    have hrow := congrArg Res.outcome (swsStart_of_illegal hmode (legalN_eq_false_iff.2 hn) chunks)
    exact ⟨_, hrow, hrow, rfl⟩
  case role =>
    have hrow := congrArg Res.outcome (swsStart_of_role hmode n chunks)
    exact ⟨hrow, hrow⟩

/-! ### The sender's retransmissions -/

theorem swsResend_of_left {s : State} {c : Bytes} (hst : s.sws.st = .awaitingAck) (hleft : budgetLeft s s.sws.retry)
    (hc : s.sws.chunk[s.sws.i]? = some c) :
    swsResend s = .ok { s with
      sws := { s.sws with retry := s.sws.retry + 1 }, tx := s.tx ++ [dataMessage s.sws.n s.sws.i c] } := by
  rw [swsResend, if_pos hst, retryThen_of_left hleft]
  exact sendPacket_of_getElem? (e := .sws) (s := setRetry .sws (s.sws.retry + 1) s) hc

theorem swsResend_of_spent {s : State} (hst : s.sws.st = .awaitingAck) (hspent : budgetSpent s s.sws.retry) :
    swsResend s = .ok { s with sws := { s.sws with st := .failed, err := .retryExhausted } } := by
  rw [swsResend, if_pos hst, retryThen_of_spent hspent]
  rfl

/-- The message `NAK` at a Stop-and-Wait sender is its row `SWS.NAK` (R174, R242). -/
theorem exec_nak_of_swTx {s : State} (h : s.mode = .swTx) (num : U16) :
    exec (.nak num) s = (swsResend s).outcome := by
  have hne : ¬ Config.nakKind = Config.ackKind := by decide
  have hrx : rxCtrl Config.nakKind num s = swsResend s := by rw [rxCtrl, h]; exact (if_neg hne).trans (if_pos rfl)
  exact congrArg Res.outcome hrx

/-- The event `TIMEOUT` at a Stop-and-Wait sender is its row `SWS.TIMEOUT` (R175, R268). -/
theorem exec_timeout_of_swTx {s : State} (h : s.mode = .swTx) : exec .timeout s = (swsResend s).outcome := by
  have htimeout : timeoutOp s = swsResend s := by rw [timeoutOp, h]
  exact congrArg Res.outcome htimeout

/-- Settles O44: the two cases of `swsResend`, which rows, message and event all run. -/
theorem stopWaitSenderResends : Obligations.StopWaitSenderResends := by
  intro num c s
  refine ⟨fun hst hleft hc => ?left, fun hst hspent => ?spent⟩
  case left =>
    have hrow := congrArg Res.outcome (swsResend_of_left hst hleft hc)
    exact ⟨_, hrow, hrow, fun hmode => ⟨(exec_nak_of_swTx hmode num).trans hrow,
      (exec_timeout_of_swTx hmode).trans hrow⟩, rfl⟩
  case spent =>
    have hrow := congrArg Res.outcome (swsResend_of_spent hst hspent)
    exact ⟨_, hrow, hrow, fun hmode => ⟨(exec_nak_of_swTx hmode num).trans hrow,
      (exec_timeout_of_swTx hmode).trans hrow⟩, rfl⟩

/-! ### The hand-off -/

/-- A complete buffer is handed off (R188). -/
theorem handoff_of_full {n : Nat} {s : State} (h : full s.swr.rb n) :
    handoff n s = s.emit (.sink (joined s.swr.rb n)) := by
  rw [handoff, if_pos (entriesPresent_iff_full.2 h), concatOr_of_full h]

/-- A buffer with a gap is the error `IncompleteReassembly` (R188). -/
theorem handoff_of_not_full {n : Nat} {s : State} (h : ¬ full s.swr.rb n) :
    handoff n s = s.setSwr { s.swr with err := .incompleteReassembly } := by
  rw [handoff, if_neg (mt entriesPresent_iff_full.1 h)]

theorem swrHandoff_of_index {idx : U16} {s : State} (h : s.swr.lastIdx = some idx) :
    swrHandoff s = handoff (idx.toNat + 1) s := by
  rw [swrHandoff, h]

theorem swrHandoff_of_absent {s : State} (h : s.swr.lastIdx = none) :
    swrHandoff s = handoff ((Config.freeIndex s.free).toNat + 1) s.bumpFree := by
  rw [swrHandoff, h]

theorem swrLast_of_full {idx : U16} {s : State} (h : full s.swr.rb (idx.toNat + 1)) :
    swrLast idx s = { s with
      swr := { s.swr with lastIdx := some idx, st := .done }
      tx := s.tx ++ [.sink (joined s.swr.rb (idx.toNat + 1))] } := by
  rw [swrLast, swrHandoff_of_index rfl]
  exact handoff_of_full (s := s.setSwr _) h

theorem swrLast_of_not_full {idx : U16} {s : State} (h : ¬ full s.swr.rb (idx.toNat + 1)) :
    swrLast idx s = { s with
      swr := { s.swr with lastIdx := some idx, st := .done, err := .incompleteReassembly } } := by
  rw [swrLast, swrHandoff_of_index rfl]
  exact handoff_of_not_full (s := s.setSwr _) h

theorem exec_swrLast_of_receiving {s : State} (h : s.swr.st = .receiving) (idx : U16) :
    exec (.swrLast idx) s = .next (swrLast idx s) := if_pos h

theorem exec_swrHandoff (s : State) : exec .swrHandoff s = .next (swrHandoff s) := rfl

/-- Settles O48: by whether the buffer is complete up to the index the hand-off works with. -/
theorem stopWaitHandOff : Obligations.StopWaitHandOff := by
  intro idx s
  refine ⟨fun hst h => ?_, fun hst h => ?_, fun hidx h => ?_, fun hidx h => ?_, fun hidx => ?absent⟩
  · rw [exec_swrLast_of_receiving hst, swrLast_of_full h]
  · rw [exec_swrLast_of_receiving hst, swrLast_of_not_full h]
  · rw [exec_swrHandoff, swrHandoff_of_index hidx, handoff_of_full h]
    rfl
  · rw [exec_swrHandoff, swrHandoff_of_index hidx, handoff_of_not_full h]
    rfl
  case absent =>
    refine ⟨_, rfl, ?_⟩
    rw [swrHandoff_of_absent hidx]
    by_cases h : full s.bumpFree.swr.rb ((Config.freeIndex s.free).toNat + 1)
    · exact .inr ⟨_, h, handoff_of_full h⟩
    · exact .inl (handoff_of_not_full h)

/-! ### A valid frame -/

/-- The receiver with another buffer. -/
def Swr.withRb (r : Swr) (rb : EntryArray) : Swr := { r with rb := rb }

/-- What a valid frame does once it is stored, without `last` (R182, R186). -/
theorem swrAccept_of_not_last (idx : U16) (rb : EntryArray) (s : State) :
    swrAccept idx false (s.setSwr (s.swr.withRb rb)) = { s with
      swr := { s.swr with rxStat := .ok, rb := rb }
      tx := s.tx ++ [.ctrl 0x06 (BitVec.ofNat 16 ((idx.toNat + 1) % 256))] } := rfl

/-- With `last` and a complete buffer (R187, R188). -/
theorem swrAccept_of_full {idx : U16} {rb : EntryArray} (h : full rb (idx.toNat + 1)) (s : State) :
    swrAccept idx true (s.setSwr (s.swr.withRb rb)) = { s with
      swr := { s.swr with st := .done, lastIdx := some idx, rxStat := .ok, rb := rb }
      tx := s.tx ++ [.ctrl 0x06 (BitVec.ofNat 16 ((idx.toNat + 1) % 256)), .sink (joined rb (idx.toNat + 1))] } := by
  rw [swrAccept, if_pos rfl, swrLast_of_full h, List.append_cons s.tx]
  rfl

/-- With `last` and a gap in the buffer (R187, R188). -/
theorem swrAccept_of_not_full {idx : U16} {rb : EntryArray} (h : ¬ full rb (idx.toNat + 1)) (s : State) :
    swrAccept idx true (s.setSwr (s.swr.withRb rb)) = { s with
      swr := { s.swr with st := .done, lastIdx := some idx, rxStat := .ok, err := .incompleteReassembly, rb := rb }
      tx := s.tx ++ [.ctrl 0x06 (BitVec.ofNat 16 ((idx.toNat + 1) % 256))] } := by
  rw [swrAccept, if_pos rfl, swrLast_of_not_full h]
  rfl

theorem swrCase_of_valid_absent {idx : U16} {frame : Bytes} {s : State} (hst : s.swr.st = .receiving)
    (hvalid : (decodeFrame s.par.maxChunk frame).valid = true) (habsent : readEntry s.swr.rb idx.toNat = none) :
    swrCase idx frame s = .first (decodeFrame s.par.maxChunk frame).chunk := by
  simp [swrCase, hst, hvalid, habsent]

theorem swrCase_of_valid_present {idx : U16} {frame d : Bytes} {s : State} (hst : s.swr.st = .receiving)
    (hvalid : (decodeFrame s.par.maxChunk frame).valid = true) (hpresent : readEntry s.swr.rb idx.toNat = some d) :
    swrCase idx frame s = .dup := by
  simp [swrCase, hst, hvalid, hpresent]

theorem exec_swrDataValidFirst_of_first {idx : U16} {frame c : Bytes} {s : State} (h : swrCase idx frame s = .first c)
    (last : Bool) : exec (.swrDataValidFirst idx last frame) s = .next (swrFirst idx last c s) := by
  change execSwrDataValidFirst idx last frame s = _
  rw [execSwrDataValidFirst, h]

theorem exec_swrDataValidDup_of_dup {idx : U16} {frame : Bytes} {s : State} (h : swrCase idx frame s = .dup)
    (last : Bool) : exec (.swrDataValidDup idx last frame) s = .next (swrDup idx last s) := by
  change execSwrDataValidDup idx last frame s = _
  rw [execSwrDataValidDup, h]

theorem swrData_of_first {idx : U16} {frame c : Bytes} {s : State} (h : swrCase idx frame s = .first c)
    (last : Bool) : swrData idx last frame s = swrFirst idx last c s := by
  rw [swrData, h]

theorem swrData_of_dup {idx : U16} {frame : Bytes} {s : State} (h : swrCase idx frame s = .dup)
    (last : Bool) : swrData idx last frame s = swrDup idx last s := by
  rw [swrData, h]

/-- The buffer after a valid frame with chunk `c` under index `i`: an entry that is there stays (R64, R182, R183). -/
def storedRb (rb : EntryArray) (i : Nat) (c : Bytes) : EntryArray :=
  if readEntry rb i = none then storeIfAbsent rb i c else rb

theorem storedRb_of_absent {rb : EntryArray} {i : Nat} (h : readEntry rb i = none) (c : Bytes) :
    storedRb rb i c = storeIfAbsent rb i c := if_pos h

theorem storedRb_of_present {rb : EntryArray} {i : Nat} (h : readEntry rb i ≠ none) (c : Bytes) :
    storedRb rb i c = rb := if_neg h

theorem readEntry_storedRb {rb : EntryArray} (hwf : EntryArray.wf rb) (i j : Nat) (c : Bytes) :
    readEntry (storedRb rb i c) j = if j = i then some ((readEntry rb i).getD c) else readEntry rb j := by
  by_cases h : readEntry rb i = none
  · rw [storedRb_of_absent h, readEntry_storeIfAbsent hwf]
  · obtain ⟨d, hd⟩ := Option.ne_none_iff_exists'.1 h
    rw [storedRb_of_present h, hd]
    split
    · subst j
      exact hd
    · rfl

/-- The envelope with a valid frame at a receiver that is receiving: stored if absent, then accepted (R182, R183). -/
theorem swrData_of_valid {idx : U16} {frame c : Bytes} {s : State} (hst : s.swr.st = .receiving)
    (hdecode : decodeFrame s.par.maxChunk frame = { chunk := c, valid := true, status := .ok }) (last : Bool) :
    swrData idx last frame s = swrAccept idx last (s.setSwr (s.swr.withRb (storedRb s.swr.rb idx.toNat c))) := by
  have hvalid : (decodeFrame s.par.maxChunk frame).valid = true := by rw [hdecode]
  cases h : readEntry s.swr.rb idx.toNat with
  | none =>
    have hcase := swrCase_of_valid_absent hst hvalid h
    rw [swrData_of_first hcase, hdecode, storedRb_of_absent h]
    rfl
  | some d =>
    rw [swrData_of_dup (swrCase_of_valid_present hst hvalid h), storedRb_of_present (by simp [h])]
    rfl

/-- Settles O46: `swrData_of_valid` names the one next state of row and envelope, and `swrAccept` its three forms. -/
theorem stopWaitReceiverAccepts : Obligations.StopWaitReceiverAccepts := by
  intro idx b frame c s hst hwf hdecode
  have hvalid : (decodeFrame s.par.maxChunk frame).valid = true := by rw [hdecode]
  have hdata := swrData_of_valid (idx := idx) hst hdecode (decide (b ≠ 0))
  refine ⟨storedRb s.swr.rb idx.toNat c, swrData idx (decide (b ≠ 0)) frame s, fun habsent => ?first,
    fun hpresent => ⟨?dup, storedRb_of_present hpresent c⟩, fun hmode => ?envelope,
    fun j => readEntry_storedRb hwf idx.toNat j c, fun hb => ?plain, fun hb hfull => ?complete, fun hb hgap => ?gap⟩
  case first =>
    have hcase := swrCase_of_valid_absent hst hvalid habsent
    rw [exec_swrDataValidFirst_of_first hcase, swrData_of_first hcase]
  case dup =>
    obtain ⟨d, hd⟩ := Option.ne_none_iff_exists'.1 hpresent
    have hcase := swrCase_of_valid_present hst hvalid hd
    rw [exec_swrDataValidDup_of_dup hcase, swrData_of_dup hcase]
  case envelope => exact exec_env_of_swRx hmode idx b frame
  case plain =>
    rw [hdata, decide_eq_false (not_not.2 hb)]
    exact swrAccept_of_not_last idx _ s
  case complete =>
    rw [hdata, decide_eq_true hb]
    exact swrAccept_of_full hfull s
  case gap =>
    rw [hdata, decide_eq_true hb]
    exact swrAccept_of_not_full hgap s

end Sys2Proof.Machine
end

section
/-!
PROOFS. The Selective-Repeat engine, second part: the sender's window invariants by name, how each rule of sender and
receiver answers in each case, and the obligations about the start, the handshake reply, acknowledgements,
retransmissions, the handshake at the receiver and the deliveries that store nothing (R201 to R206, R216 to R227).
-/

-- The proofs one after the other: side by side, those of the whole text need more memory than the check allows.
set_option Elab.async false

namespace Sys2Proof.Machine

/-! ### The sender's invariants by name -/

/-- `SrsInv` with a name for each part. -/
structure SrsFacts (p : Params) (e : Srs) : Prop where
  base_le : e.winBase ≤ e.nextSeq
  next_le_n : e.nextSeq ≤ e.n
  next_le_window : e.nextSeq ≤ e.winBase + e.w
  n_le : e.n ≤ 65536
  w_le : e.w ≤ 2 ^ 31 - 1
  outst_wf : BitArray.wf e.outst
  outst_mem : ∀ k ∈ e.outst, e.winBase ≤ k ∧ k < e.nextSeq
  base_outst : e.winBase = e.nextSeq ∨ e.winBase ∈ e.outst
  chunk_length : e.chunk.length = e.n
  chunk_fits : ∀ c ∈ e.chunk, chunkFits p.maxChunk c = true
  retry_le : withinLimit p.retryLimit e.retry
  awaitHs : e.st = .awaitHsAck → 0 < e.n ∧ 0 < e.w ∧ e.nextSeq = 0
  awaitReply : e.st = .awaitReply → 0 < e.w ∧ e.nextSeq = min e.n (e.winBase + e.w) ∧ e.winBase < e.n
  done : e.st = .done → e.winBase = e.n
  failed_iff : e.st = .failed ↔ e.err ≠ .none

theorem srsInv_iff {p : Params} {e : Srs} : SrsInv p e ↔ SrsFacts p e :=
  ⟨fun ⟨h1, h2, h3, h4, h5, h6, h7, h8, h9, h10, h11, h12, h13, h14, h15⟩ =>
    ⟨h1, h2, h3, h4, h5, h6, h7, h8, h9, h10, h11, h12, h13, h14, h15⟩,
   fun h => ⟨h.base_le, h.next_le_n, h.next_le_window, h.n_le, h.w_le, h.outst_wf, h.outst_mem, h.base_outst,
    h.chunk_length, h.chunk_fits, h.retry_le, h.awaitHs, h.awaitReply, h.done, h.failed_iff⟩⟩

theorem SrsFacts.bounds_of_outst {p : Params} {e : Srs} (h : SrsFacts p e) {k : Nat} (hk : readBit e.outst k = true) :
    e.winBase ≤ k ∧ k < e.nextSeq := h.outst_mem k (readBit_eq_true.1 hk)

/-! ### The sender's start -/

/-- The sender's registers after a legal start (R152, R201). -/
def Srs.started (n w : I32) (chunks : List Bytes) : Srs :=
  { st := .awaitHsAck, n := n.toInt.toNat, w := w.toInt.toNat, winBase := 0, nextSeq := 0, retry := 0, err := .none,
    outst := [], chunk := chunks }

theorem legalNW_iff {n w : I32} : (legalN n && legalW w) = true ↔ (1 ≤ n.toInt ∧ n.toInt ≤ 65536) ∧ 1 ≤ w.toInt := by
  rw [Bool.and_eq_true, legalN_iff, legalW_iff]

theorem legalNW_eq_false_iff {n w : I32} :
    (legalN n && legalW w) = false ↔ n.toInt ≤ 0 ∨ 65536 < n.toInt ∨ w.toInt ≤ 0 := by
  rw [← Bool.not_eq_true, legalNW_iff]
  omega

theorem srsStart_of_legal {n w : I32} {s : State} (hmode : s.mode = .none) (hlegal : (legalN n && legalW w) = true)
    (chunks : List Bytes) : srsStart n w chunks s =
      { s with mode := .srTx, srs := Srs.started n w chunks, tx := s.tx ++ [.hs n w] } := by
  rw [srsStart, if_pos hmode, if_pos hlegal]
  rfl

theorem srsStart_of_illegal {n w : I32} {s : State} (hmode : s.mode = .none)
    (hlegal : (legalN n && legalW w) = false) (chunks : List Bytes) : srsStart n w chunks s =
      { s with mode := .srTx, srs := { s.srs with st := .failed, err := .malformedHandshake } } := by
  rw [srsStart, if_pos hmode, if_neg (by simp [hlegal])]
  rfl

theorem srsStart_of_role {s : State} (hmode : s.mode ≠ .none) (n w : I32) (chunks : List Bytes) :
    srsStart n w chunks s = s := if_neg hmode

/-- Settles O49: the three cases of `srsStart`, which row and common start both run. -/
theorem selectiveRepeatSenderStarts : Obligations.SelectiveRepeatSenderStarts := by
  intro n w chunks s
  refine ⟨fun hmode hlow hhigh hw => ?legal, fun hmode hnw => ?illegal, fun hmode => ?role⟩
  case legal =>
    have heq := srsStart_of_legal hmode (legalNW_iff.2 ⟨⟨hlow, hhigh⟩, hw⟩) chunks
    exact ⟨_, congrArg Host.Outcome.next heq, congrArg Host.Outcome.next heq, rfl⟩
  case illegal =>
    have heq := srsStart_of_illegal hmode (legalNW_eq_false_iff.2 hnw) chunks
    exact ⟨_, congrArg Host.Outcome.next heq, congrArg Host.Outcome.next heq, rfl⟩
  case role =>
    have heq := srsStart_of_role hmode n w chunks
    exact ⟨congrArg Host.Outcome.next heq, congrArg Host.Outcome.next heq⟩

/-! ### The handshake reply -/

/-- `WIN_FILL` with a chunk for every index, as the term of the statements (R154). -/
theorem winFill_eq_sent {s : State} (h : s.srs.chunk.length = s.srs.n) :
    winFill s = .ok { s with
      srs := { s.srs with
        nextSeq := max s.srs.nextSeq (winHi s.srs)
        outst := addRange s.srs.outst (winHi s.srs - s.srs.nextSeq) s.srs.nextSeq }
      tx := s.tx ++ sent s.srs.n s.srs.chunk (List.range' s.srs.nextSeq (winHi s.srs - s.srs.nextSeq)) } := by
  have hchunk : winHi s.srs ≤ s.srs.chunk.length := by
    rw [h]
    exact Nat.min_le_left _ _
  rw [winFill_of_le s (.inl hchunk), sent_eq_map_dataMessage]

/-- The sender's registers after the first fill (R202). -/
def Srs.opened (e : Srs) : Srs :=
  { e with
    st := .awaitReply, nextSeq := min e.n e.w, outst := addRange [] (min e.n e.w) 0 }

/-- Before the first fill the window is empty: nothing was sent and nothing is outstanding (R26). -/
theorem SrsFacts.empty_window {p : Params} {e : Srs} (h : SrsFacts p e) (hst : e.st = .awaitHsAck) :
    e.nextSeq = 0 ∧ e.winBase = 0 ∧ e.outst = [] := by
  obtain ⟨-, -, hnext⟩ := h.awaitHs hst
  have hbase := h.base_le
  refine ⟨hnext, by omega, List.eq_nil_iff_forall_not_mem.2 fun k hk => ?_⟩
  have := h.outst_mem k hk
  omega

/-- `SRS.HSACK` in `AwaitHsAck`: the packets 0 .. min(N, W) - 1 leave (R202). -/
theorem srsHsack_of_await {p : Params} {s : State} (h : SrsFacts p s.srs) (hst : s.srs.st = .awaitHsAck) :
    srsHsack s = .ok { s with
      srs := s.srs.opened, tx := s.tx ++ sent s.srs.n s.srs.chunk (List.range (min s.srs.n s.srs.w)) } := by
  obtain ⟨hnext, hbase, hout⟩ := h.empty_window hst
  have hhi : winHi s.srs = min s.srs.n s.srs.w := by rw [winHi, hbase, Nat.zero_add]
  simp only [srsHsack, if_pos hst, winFill_eq_sent h.chunk_length, hnext, hhi, hout, Nat.zero_max, Nat.sub_zero,
    List.range_eq_range']
  rfl

/-- The messages HSACK and ACK at a sender that awaits the handshake reply are its row `SRS.HSACK` (R93, R202). -/
theorem rxCtrl_ack_of_awaitHs {s : State} (hmode : s.mode = .srTx) (hst : s.srs.st = .awaitHsAck) (num : U16) :
    rxCtrl Config.ackKind num s = srsHsack s := by
  simp [rxCtrl, hmode, hst]

/-- Settles O50: `srsHsack_of_await`; the outstanding set is the range that was sent. -/
theorem handshakeReplyOpensTheWindow : Obligations.HandshakeReplyOpensTheWindow := by
  intro p s hinv hst
  have hfacts := srsInv_iff.1 hinv
  have hrow := congrArg Res.outcome (srsHsack_of_await hfacts hst)
  obtain ⟨hn, hw, -⟩ := hfacts.awaitHs hst
  refine ⟨s.srs.opened.outst, _, hrow, fun hmode => ?messages, by omega, fun j => ?bits, rfl⟩
  case messages =>
    have hmessage := congrArg Res.outcome (rxCtrl_ack_of_awaitHs hmode hst p)
    exact ⟨hmessage.trans hrow, hmessage.trans hrow⟩
  case bits =>
    have hbits := readBit_addRange_sub [] 0 (min s.srs.n s.srs.w) j
    rw [Nat.sub_zero] at hbits
    simpa [readBit, Srs.opened] using hbits

/-! ### Acknowledgements -/

/-- `WINBASE` after `WIN_ACK` and `WIN_ADVANCE` (R155, R156). -/
def slidBase (num : U16) (e : Srs) : Nat := advanceFrom (ackedOutst num e) (e.nextSeq - e.winBase) e.winBase

/-- The sender's registers after an acknowledgement, before the window is filled (R203). -/
def Srs.slid (num : U16) (e : Srs) : Srs :=
  { e with
    winBase := slidBase num e, retry := if winAckHit e num then 0 else e.retry, outst := ackedOutst num e }

theorem srsAckWindow_eq (num : U16) (s : State) : srsAckWindow num s = { s with srs := s.srs.slid num } := by
  unfold srsAckWindow Srs.slid slidBase
  rw [winAck_eq]
  split <;> rfl

theorem SrsFacts.winAckHit_eq {p : Params} {e : Srs} (h : SrsFacts p e) (num : U16) :
    winAckHit e num = readBit e.outst num.toNat := by
  unfold winAckHit
  cases hbit : readBit e.outst num.toNat
  · simp
  · have := h.bounds_of_outst hbit
    have := h.next_le_n
    simpa using (by omega : num.toNat < e.n)

/-- What the acknowledged index was does not matter above `N`: it is outstanding nowhere (R155). -/
theorem SrsFacts.readBit_ackedOutst {p : Params} {e : Srs} (h : SrsFacts p e) (num : U16) (j : Nat) :
    readBit (ackedOutst num e) j = (readBit e.outst j && decide (j ≠ num.toNat)) := by
  rw [Machine.readBit_ackedOutst]
  cases hbit : readBit e.outst j
  · rfl
  · have := h.bounds_of_outst hbit
    have := h.next_le_n
    rw [Bool.true_and, Bool.true_and, ← decide_not]
    exact decide_eq_decide.2 (by omega)

/-- `WINBASE` stops at the first index still outstanding, or at `NEXTSEQ` (R156). -/
theorem SrsFacts.slidBase_spec {p : Params} {e : Srs} (h : SrsFacts p e) (num : U16) :
    e.winBase ≤ slidBase num e ∧ slidBase num e ≤ e.nextSeq ∧
      (∀ j, e.winBase ≤ j → j < slidBase num e → readBit (ackedOutst num e) j = false) ∧
      (slidBase num e = e.nextSeq ∨ readBit (ackedOutst num e) (slidBase num e) = true) := by
  obtain ⟨hlow, hhigh, hclear, hstop⟩ := advanceFrom_spec (ackedOutst num e) (e.nextSeq - e.winBase) e.winBase
  have hbase := h.base_le
  have hroom : e.winBase + (e.nextSeq - e.winBase) = e.nextSeq := by omega
  rw [hroom] at hhigh hstop
  exact ⟨hlow, hhigh, hclear, hstop⟩

/-- What is outstanding after an acknowledgement lies between the new `WINBASE` and `NEXTSEQ` (R158). -/
theorem SrsFacts.ackedOutst_bounds {p : Params} {e : Srs} (h : SrsFacts p e) (num : U16) {k : Nat}
    (hk : readBit (ackedOutst num e) k = true) : slidBase num e ≤ k ∧ k < e.nextSeq := by
  obtain ⟨-, -, hclear, -⟩ := h.slidBase_spec num
  have hold : readBit e.outst k = true := by
    rw [h.readBit_ackedOutst, Bool.and_eq_true] at hk
    exact hk.1
  obtain ⟨hlow, hhigh⟩ := h.bounds_of_outst hold
  refine ⟨Nat.le_of_not_lt fun hlt => ?_, hhigh⟩
  rw [hclear k hlow hlt] at hk
  exact Bool.false_ne_true hk

/-- The stream is finished exactly when `WINBASE` has reached `N` (R157, R206). -/
theorem SrsFacts.winDone_slid_iff {p : Params} {e : Srs} (h : SrsFacts p e) (num : U16) :
    winDone (e.slid num) = true ↔ slidBase num e = e.n := by
  obtain ⟨-, hhigh, -, -⟩ := h.slidBase_spec num
  have hnext := h.next_le_n
  rw [winDone_iff]
  constructor
  · rintro ⟨hle, -⟩
    change e.n ≤ slidBase num e at hle
    omega
  · intro hbase
    refine ⟨hbase.ge, fun j => Bool.eq_false_iff.2 fun hj => ?_⟩
    have := h.ackedOutst_bounds num hj
    omega

/-- The sender's registers after `SRS.ACK` (R203, R206). -/
def Srs.afterAck (num : U16) (e : Srs) : Srs :=
  { e.slid num with
    st := if slidBase num e = e.n then .done else .awaitReply
    nextSeq := min e.n (slidBase num e + e.w)
    outst := addRange (ackedOutst num e) (min e.n (slidBase num e + e.w) - e.nextSeq) e.nextSeq }

/-- What `SRS.ACK` sends: the packets the window has come to hold (R203). -/
def Srs.ackSends (num : U16) (e : Srs) : List Message :=
  sent e.n e.chunk (List.range' e.nextSeq (min e.n (slidBase num e + e.w) - e.nextSeq))

/-- `SRS.ACK` in `AwaitReply`: the window slides and is filled; at the end of the stream there is nothing to fill
(R203, R206). -/
theorem srsAck_of_await {p : Params} {s : State} (h : SrsFacts p s.srs) (hst : s.srs.st = .awaitReply) (num : U16) :
    srsAck num s = .ok { s with srs := s.srs.afterAck num, tx := s.tx ++ s.srs.ackSends num } := by
  obtain ⟨hw, hfull, -⟩ := h.awaitReply hst
  obtain ⟨hlow, hhigh, -, -⟩ := h.slidBase_spec num
  have hnext := h.next_le_n
  have hmono : s.srs.nextSeq ≤ min s.srs.n (slidBase num s.srs + s.srs.w) := by omega
  simp only [srsAck, if_pos hst, srsAckWindow_eq]
  by_cases hdone : slidBase num s.srs = s.srs.n
  · have hzero : min s.srs.n (slidBase num s.srs + s.srs.w) - s.srs.nextSeq = 0 := by omega
    have hkeep : min s.srs.n (slidBase num s.srs + s.srs.w) = s.srs.nextSeq := by omega
    rw [if_pos ((h.winDone_slid_iff num).2 hdone), Srs.afterAck, Srs.ackSends, hzero, if_pos hdone, hkeep]
    simp [State.setSrs, Srs.slid, addRange, sent]
  · have hfill := winFill_eq_sent (s := { s with srs := s.srs.slid num }) h.chunk_length
    rw [if_neg (mt (h.winDone_slid_iff num).1 hdone), hfill, Srs.afterAck, Srs.ackSends, if_neg hdone, ← hst]
    simp only [Srs.slid, winHi, Nat.max_eq_right hmono]

theorem rxCtrl_ack_of_srTx {s : State} (hmode : s.mode = .srTx) (hst : s.srs.st ≠ .awaitHsAck) (num : U16) :
    rxCtrl Config.ackKind num s = srsAck num s := by
  simp [rxCtrl, hmode, hst]

/-- Settles O51: `srsAck_of_await`, with the base of `slidBase_spec` and the bits of `ackedOutst`. -/
theorem acknowledgementSlidesTheWindow : Obligations.AcknowledgementSlidesTheWindow := by
  intro num s hinv hst
  have hfacts := srsInv_iff.1 hinv
  obtain ⟨hlow, hhigh, hclear, hstop⟩ := hfacts.slidBase_spec num
  have hrow := congrArg Res.outcome (srsAck_of_await hfacts hst num)
  have hacked := hfacts.readBit_ackedOutst num
  refine ⟨slidBase num s.srs, (s.srs.afterAck num).outst, _, hrow, fun hmode => ?message, hlow, hhigh,
    fun j hj hlt => ?cleared, ?stop, fun j => ?bits, ?state⟩
  case message => exact (congrArg Res.outcome (rxCtrl_ack_of_srTx hmode (by simp [hst]) num)).trans hrow
  case cleared =>
    have hbit := hclear j hj hlt
    rw [hacked, Bool.and_eq_false_iff, decide_eq_false_iff_not, not_not] at hbit
    exact hbit.symm
  case stop =>
    refine hstop.imp id fun hbit => ?_
    rw [hacked, Bool.and_eq_true, decide_eq_true_iff] at hbit
    exact hbit.symm
  case bits => exact (readBit_addRange_sub (ackedOutst num s.srs) _ _ j).trans (by rw [hacked])
  case state =>
    rw [← hfacts.winAckHit_eq num]
    rfl

/-! ### Retransmissions -/

theorem srsNak_of_not_sent {s : State} {num : U16} (hst : s.srs.st = .awaitReply) (h : s.srs.nextSeq ≤ num.toNat) :
    srsNak num s = .ok s := by
  rw [srsNak, if_pos hst, if_pos h]

theorem srsNak_of_left {s : State} {num : U16} (hst : s.srs.st = .awaitReply) (h : num.toNat < s.srs.nextSeq)
    (hleft : budgetLeft s s.srs.retry) (hchunk : s.srs.nextSeq ≤ s.srs.chunk.length) :
    srsNak num s = .ok { s with
      srs := { s.srs with retry := s.srs.retry + 1 }, tx := s.tx ++ sent s.srs.n s.srs.chunk [num.toNat] } := by
  rw [srsNak, if_pos hst, if_neg (Nat.not_le.2 h), retryThen_of_left hleft]
  exact sendPacket_eq_sent (e := .srs) (s := setRetry .srs (s.srs.retry + 1) s) (Nat.lt_of_lt_of_le h hchunk)

theorem srsNak_of_spent {s : State} {num : U16} (hst : s.srs.st = .awaitReply) (h : num.toNat < s.srs.nextSeq)
    (hspent : budgetSpent s s.srs.retry) :
    srsNak num s = .ok { s with srs := { s.srs with st := .failed, err := .retryExhausted } } := by
  rw [srsNak, if_pos hst, if_neg (Nat.not_le.2 h), retryThen_of_spent hspent]
  rfl

theorem srsTimeout_of_left {s : State} (hst : s.srs.st = .awaitReply) (hleft : budgetLeft s s.srs.retry)
    (hchunk : s.srs.nextSeq ≤ s.srs.chunk.length) :
    srsTimeout s = .ok { s with
      srs := { s.srs with retry := s.srs.retry + 1 }
      tx := s.tx ++ sent s.srs.n s.srs.chunk (timeoutIndices s.srs) } := by
  rw [srsTimeout, if_pos hst, retryThen_of_left hleft]
  refine sendAll_eq_sent (e := .srs) (s := setRetry .srs (s.srs.retry + 1) s) fun k hk => ?_
  have hbounds := (List.mem_filter.1 hk).2
  rw [Bool.and_eq_true, decide_eq_true_iff, decide_eq_true_iff] at hbounds
  exact Nat.lt_of_lt_of_le hbounds.2 hchunk

theorem srsTimeout_of_spent {s : State} (hst : s.srs.st = .awaitReply) (hspent : budgetSpent s s.srs.retry) :
    srsTimeout s = .ok { s with srs := { s.srs with st := .failed, err := .retryExhausted } } := by
  rw [srsTimeout, if_pos hst, retryThen_of_spent hspent]
  rfl

/-- The message `NAK` at a Selective-Repeat sender is its row `SRS.NAK` (R204, R242). -/
theorem rxCtrl_nak_of_srTx {s : State} (hmode : s.mode = .srTx) (num : U16) :
    rxCtrl Config.nakKind num s = srsNak num s := by
  have hne : ¬ Config.nakKind = Config.ackKind := by decide
  simp [rxCtrl, hmode, hne]

/-- The event `TIMEOUT` at a Selective-Repeat sender is its row `SRS.TIMEOUT` (R205, R268). -/
theorem timeoutOp_of_srTx {s : State} (hmode : s.mode = .srTx) : timeoutOp s = srsTimeout s := by
  rw [timeoutOp, hmode]

/-- Settles O52: the cases of `srsNak` and `srsTimeout`; what a timeout resends is the ascending scan of the window. -/
theorem selectiveRepeatSenderResends : Obligations.SelectiveRepeatSenderResends := by
  intro num s
  have hnak (hmode : s.mode = .srTx) : exec (.nak num) s = exec (.srsNak num) s :=
    congrArg Res.outcome (rxCtrl_nak_of_srTx hmode num)
  have htimeout (hmode : s.mode = .srTx) : exec .timeout s = exec .srsTimeout s :=
    congrArg Res.outcome (timeoutOp_of_srTx hmode)
  refine ⟨fun hst h => ?notSent, fun hst h hleft hchunk => ?nakLeft, fun hst hleft hwf hchunk => ?timeoutLeft,
    fun hst hspent => ?spent⟩
  case notSent =>
    have hrow := congrArg Res.outcome (srsNak_of_not_sent hst h)
    exact ⟨hrow, fun hmode => (hnak hmode).trans hrow⟩
  case nakLeft =>
    have hrow := congrArg Res.outcome (srsNak_of_left hst h hleft hchunk)
    exact ⟨_, hrow, fun hmode => (hnak hmode).trans hrow, rfl⟩
  case timeoutLeft =>
    have hrow := congrArg Res.outcome (srsTimeout_of_left hst hleft hchunk)
    refine ⟨_, hrow, fun hmode => (htimeout hmode).trans hrow, ?_⟩
    rw [filter_range'_readBit hwf]
    rfl
  case spent =>
    have hrow := congrArg Res.outcome (srsTimeout_of_spent hst hspent)
    refine ⟨_, hrow, fun h => ?_, fun hmode => (htimeout hmode).trans hrow, rfl⟩
    have hrowNak := congrArg Res.outcome (srsNak_of_spent hst h hspent)
    exact ⟨hrowNak, fun hmode => (hnak hmode).trans hrowNak⟩

/-! ### The receiver's handshake -/

/-- The receiver's registers after a legal handshake (R217). -/
def Srr.opened (n w : I32) (r : Srr) : Srr :=
  { st := .receiving, n := n.toInt.toNat, w := w.toInt.toNat, rcount := 0, lastSeen := false, oor := false,
    rxStat := .ok, err := r.err, flags := [], nakSent := [], rb := [] }

theorem srrHsLegal_eq (n w : I32) (s : State) :
    srrHsLegal n w s = { s with srr := s.srr.opened n w, tx := s.tx ++ [.ctrl 0x06 0] } := rfl

theorem srrHs_of_legal {n w : I32} {s : State} (hst : s.srr.st = .awaitHs) (h : (legalN n && legalW w) = true) :
    srrHs n w s = srrHsLegal n w s := by
  rw [srrHs, if_pos hst, if_pos h]

theorem srrHs_of_illegal {n w : I32} {s : State} (hst : s.srr.st = .awaitHs) (h : (legalN n && legalW w) = false) :
    srrHs n w s = srrHsBad s := by
  rw [srrHs, if_pos hst, if_neg (by simp [h])]

/-- The message HS at a Selective-Repeat receiver is the event `RX_HS` there (R217, R240). -/
theorem exec_hs_of_srRx {s : State} (hmode : s.mode = .srRx) (n w : I32) : exec (.hs n w) s = .next (srrHs n w s) := by
  have hrx : rxHs n w s = srrHs n w s := by rw [rxHs, hmode]
  exact congrArg Host.Outcome.next hrx

theorem exec_srrHs_of_legal {n w : I32} {s : State} (hst : s.srr.st = .awaitHs) (h : (legalN n && legalW w) = true) :
    exec (.srrHs n w) s = .next (srrHsLegal n w s) := if_pos ⟨hst, h⟩

theorem exec_srrHsMalformed_of_illegal {n w : I32} {s : State} (hst : s.srr.st = .awaitHs)
    (h : (legalN n && legalW w) = false) : exec (.srrHsMalformed n w) s = .next (srrHsBad s) := if_pos ⟨hst, h⟩

/-- Settles O53: row and message run the case the fields select. -/
theorem handshakeOpensTheReceiver : Obligations.HandshakeOpensTheReceiver := by
  intro n w s
  refine ⟨fun hst hlow hhigh hw => ?legal, fun hst hnw => ?illegal⟩
  case legal =>
    have hlegal := legalNW_iff.2 ⟨⟨hlow, hhigh⟩, hw⟩
    refine ⟨_, exec_srrHs_of_legal hst hlegal, fun hmode => ?_, srrHsLegal_eq n w s⟩
    rw [exec_hs_of_srRx hmode, srrHs_of_legal hst hlegal]
  case illegal =>
    have hlegal := legalNW_eq_false_iff.2 hnw
    refine ⟨_, exec_srrHsMalformed_of_illegal hst hlegal, fun hmode => ?_, rfl⟩
    rw [exec_hs_of_srRx hmode, srrHs_of_illegal hst hlegal]

/-! ### Deliveries that store nothing -/

theorem srrCase_of_oor {idx : U16} {s : State} (hst : s.srr.st = .receiving) (h : s.srr.n ≤ idx.toNat)
    (frame : Bytes) : srrCase idx frame s = .oor := by
  rw [srrCase, if_pos hst, if_neg (idxValid_of_le h)]

theorem srrCase_of_dup {idx : U16} {frame : Bytes} {s : State} (hst : s.srr.st = .receiving)
    (hidx : idx.toNat < s.srr.n) (hflag : readBit s.srr.flags idx.toNat = true)
    (hvalid : (decodeFrame s.par.maxChunk frame).valid = true) : srrCase idx frame s = .dup := by
  simp [srrCase, idxValid, hst, hidx, hflag, hvalid]

theorem srrCase_of_invalid {idx : U16} {frame : Bytes} {s : State} (hst : s.srr.st = .receiving)
    (hidx : idx.toNat < s.srr.n) (hinvalid : (decodeFrame s.par.maxChunk frame).valid = false) :
    srrCase idx frame s = .bad (decodeFrame s.par.maxChunk frame).status := by
  simp [srrCase, idxValid, hst, hidx, hinvalid]

theorem exec_srrDataOor_of_oor {idx : U16} {frame : Bytes} {s : State} (h : srrCase idx frame s = .oor)
    (last : Bool) : exec (.srrDataOor idx last frame) s = .next (srrOor s) := by
  change execSrrDataOor idx last frame s = _
  rw [execSrrDataOor, h]

theorem exec_srrDataValidDup_of_dup {idx : U16} {frame : Bytes} {s : State} (h : srrCase idx frame s = .dup)
    (last : Bool) : exec (.srrDataValidDup idx last frame) s = .next (srrDup idx last s) := by
  change execSrrDataValidDup idx last frame s = _
  rw [execSrrDataValidDup, h]

theorem exec_srrDataInvalid_of_bad {idx : U16} {frame : Bytes} {s : State} {status : RxStat}
    (h : srrCase idx frame s = .bad status) (last : Bool) :
    exec (.srrDataInvalid idx last frame) s = .next (srrBad idx status s) := by
  change execSrrDataInvalid idx last frame s = _
  rw [execSrrDataInvalid, h]

theorem srrData_of_oor {idx : U16} {frame : Bytes} {s : State} (h : srrCase idx frame s = .oor) (last : Bool) :
    srrData idx last frame s = srrOor s := by
  rw [srrData, h]

theorem srrData_of_dup {idx : U16} {frame : Bytes} {s : State} (h : srrCase idx frame s = .dup) (last : Bool) :
    srrData idx last frame s = srrDup idx last s := by
  rw [srrData, h]

theorem srrData_of_bad {idx : U16} {frame : Bytes} {s : State} {status : RxStat}
    (h : srrCase idx frame s = .bad status) (last : Bool) : srrData idx last frame s = srrBad idx status s := by
  rw [srrData, h]

theorem srrOor_eq (s : State) :
    srrOor s = { s with srr := { s.srr with oor := true, rxStat := .outOfRange } } := rfl

theorem srrDup_eq (idx : U16) (last : Bool) (s : State) : srrDup idx last s = { s with
    srr := { s.srr with lastSeen := s.srr.lastSeen || last, rxStat := .ok }, tx := s.tx ++ [.ctrl 0x06 idx] } := rfl

/-- An invalid frame writes the status, and the first one for its index is answered (R221). -/
theorem srrBad_eq (idx : U16) (status : RxStat) (s : State) : srrBad idx status s = { s with
    srr := { s.srr with rxStat := status, nakSent := nakMarked s.srr.nakSent idx.toNat }
    tx := s.tx ++ (if readBit s.srr.nakSent idx.toNat then [] else [.ctrl 0x21 idx]) } := by
  unfold srrBad nakOnceFirst
  simp only [nakOnce_eq]
  cases hbit : readBit s.srr.nakSent idx.toNat
  · simp [hbit, State.setSrr, State.emit, nakMarked, Config.nakKind]
  · simp [hbit, State.setSrr, nakMarked]

/-- Settles O55: row and envelope run the case the frame is, each with its next state. -/
theorem otherDeliveriesStoreNothing : Obligations.OtherDeliveriesStoreNothing := by
  intro idx b frame c status s
  have henvelope (hmode : s.mode = .srRx) : exec (.env idx b frame) s = .next (srrData idx (decide (b ≠ 0)) frame s) :=
    exec_env_of_srRx hmode idx b frame
  refine ⟨fun hst hidx => ?oor, fun hst hidx hflag hdecode => ?dup, fun hst hidx hdecode => ?bad⟩
  case oor =>
    have hcase := srrCase_of_oor hst hidx frame
    refine ⟨_, exec_srrDataOor_of_oor hcase _, fun hmode => ?_, srrOor_eq s⟩
    rw [henvelope hmode, srrData_of_oor hcase]
  case dup =>
    have hcase := srrCase_of_dup hst hidx hflag (frame := frame) (by rw [hdecode])
    refine ⟨_, exec_srrDataValidDup_of_dup hcase _, fun hmode => ?_, srrDup_eq idx _ s⟩
    rw [henvelope hmode, srrData_of_dup hcase]
  case bad =>
    have hcase : srrCase idx frame s = .bad status := by
      rw [srrCase_of_invalid hst hidx (by rw [hdecode]), hdecode]
    refine ⟨_, _, exec_srrDataInvalid_of_bad hcase _, fun hmode => ?_,
      readBit_nakMarked s.srr.nakSent idx.toNat, srrBad_eq idx status s⟩
    rw [henvelope hmode, srrData_of_bad hcase]

end Sys2Proof.Machine
end

section
/-!
PROOFS. The host's events and the default arm: the receivers' starts, STOP and TRANSPORT_FAIL, and every rule out of the
state it is for, with the obligations about them (R181, R216, R249, R258, R269, R270).
-/

-- The proofs one after the other: side by side, those of the whole text need more memory than the check allows.
set_option Elab.async false

namespace Sys2Proof.Machine

/-! ### The receivers' starts -/

theorem swrStart_of_none {s : State} (hmode : s.mode = .none) : swrStart s = { s with
    mode := .swRx, swr := { st := .receiving, lastIdx := none, rxStat := .ok, err := .none, rb := [] } } :=
  if_pos hmode

theorem swrStart_of_role {s : State} (hmode : s.mode ≠ .none) : swrStart s = s := if_neg hmode

theorem srrStart_of_none {s : State} (hmode : s.mode = .none) : srrStart s = { s with
    mode := .srRx, srr := { Srr.reset with st := .awaitHs } } := if_pos hmode

theorem srrStart_of_role {s : State} (hmode : s.mode ≠ .none) : srrStart s = s := if_neg hmode

theorem exec_swrStart (s : State) : exec .swrStart s = .next (swrStart s) := rfl

theorem exec_srrStart (s : State) : exec .srrStart s = .next (srrStart s) := rfl

/-- The start an operation is, as a row of its own or under START.COMMON (R249). -/
def startReqOf : Instr → Option StartReq
  | .swsStart n chunks => some (.swTx n chunks)
  | .swrStart => some .swRx
  | .srsStart n w chunks => some (.srTx n w chunks)
  | .srrStart => some .srRx
  | .startCommon r => some r
  | _ => none

/-- The row of an engine's start and START.COMMON with the same start are one operation (R249). -/
theorem exec_of_startReq {i : Instr} {r : StartReq} (h : startReqOf i = some r) (s : State) :
    exec i s = (startOp r s).outcome := by
  unfold startReqOf at h
  split at h <;> cases h <;> rfl

/-- With a role taken every start is ignored (R249). -/
theorem startOp_of_role {s : State} (hmode : s.mode ≠ .none) (r : StartReq) : startOp r s = .ok s := by
  cases r with
  | swTx n chunks => exact swsStart_of_role hmode n chunks
  | swRx => exact congrArg Except.ok (swrStart_of_role hmode)
  | srTx n w chunks => exact congrArg Except.ok (srsStart_of_role hmode n w chunks)
  | srRx => exact congrArg Except.ok (srrStart_of_role hmode)

/-- Settles O45: by whether a role is taken. -/
theorem receiversStart : Obligations.ReceiversStart := by
  intro s
  refine ⟨fun hmode => ⟨_, exec_swrStart s, rfl, swrStart_of_none hmode⟩,
    fun hmode => ⟨_, exec_srrStart s, rfl, srrStart_of_none hmode⟩, fun hmode => ?_⟩
  have hstart (i : Instr) (r : StartReq) (h : startReqOf i = some r) : exec i s = .next s := by
    rw [exec_of_startReq h, startOp_of_role hmode]
    rfl
  exact ⟨hstart _ _ rfl, hstart _ _ rfl, hstart _ _ rfl, hstart _ _ rfl⟩

/-! ### STOP and TRANSPORT_FAIL -/

theorem stopOp_of_running {s : State} {x : Engine} (hmode : activeEngine s.mode = some x) (hrun : running x s = true) :
    stopOp s = stopEngine x s := by
  rw [stopOp, hmode]
  exact if_pos hrun

theorem transportFailOp_of_running {s : State} {x : Engine} (hmode : activeEngine s.mode = some x)
    (hrun : running x s = true) : transportFailOp s = raiseError x .transportFailure s := by
  rw [transportFailOp, hmode]
  exact if_pos hrun

/-- Without a running engine neither event does anything (R269, R270). -/
theorem stopOp_of_not_running {s : State} (h : ∀ x, activeEngine s.mode = some x → running x s = false) :
    stopOp s = s ∧ transportFailOp s = s := by
  unfold stopOp transportFailOp
  cases hmode : activeEngine s.mode with
  | none => exact ⟨rfl, rfl⟩
  | some x => simp [h x hmode]

/-- The engine of an ended session does not run (R22). -/
theorem not_running_of_ended {s : State} (h : ended s) (x : Engine) (hx : activeEngine s.mode = some x) :
    running x s = false := by
  rcases h with ⟨hmode, hst⟩ | ⟨hmode, hst⟩ | ⟨hmode, hst⟩ | ⟨hmode, hst⟩
  all_goals
    rw [hmode] at hx
    obtain rfl := Option.some.inj hx
    rcases hst with e | e | e <;> rw [running, e] <;> rfl

theorem exec_stop (s : State) : exec .stop s = .next (stopOp s) := rfl

theorem exec_transportFail (s : State) : exec .transportFail s = .next (transportFailOp s) := rfl

/-- STOP and TRANSPORT_FAIL at the engine `MODE` names, while it runs (R269, R270). -/
theorem exec_stop_and_fail_of_running {s : State} {x : Engine} (hmode : activeEngine s.mode = some x)
    (hrun : running x s = true) : exec .stop s = .next (stopEngine x s) ∧
      exec .transportFail s = .next (raiseError x .transportFailure s) := by
  rw [exec_stop, exec_transportFail, stopOp_of_running hmode hrun, transportFailOp_of_running hmode hrun]
  exact ⟨rfl, rfl⟩

/-- Settles O56: `exec_stop_and_fail_of_running` at each engine, `stopOp_of_not_running` otherwise. -/
theorem stopAndFailureEndTheSession : Obligations.StopAndFailureEndTheSession := by
  intro s
  refine ⟨fun hmode hst => ?_, fun hmode hst => ?_, fun hmode hst => ?_, fun hmode hst => ?_, fun h => ?ignored⟩
  · exact exec_stop_and_fail_of_running (x := .sws) (by rw [hmode]; rfl) (by rw [running, hst]; rfl)
  · exact exec_stop_and_fail_of_running (x := .swr) (by rw [hmode]; rfl) (by rw [running, hst]; rfl)
  · exact exec_stop_and_fail_of_running (x := .srs) (by rw [hmode]; rfl)
      (by rcases hst with e | e <;> rw [running, e] <;> rfl)
  · exact exec_stop_and_fail_of_running (x := .srr) (by rw [hmode]; rfl)
      (by rcases hst with e | e <;> rw [running, e] <;> rfl)
  case ignored =>
    have hidle : ∀ x, activeEngine s.mode = some x → running x s = false := by
      rcases h with hmode | hended
      · intro x hx
        rw [hmode] at hx
        cases hx
      · exact not_running_of_ended hended
    rw [exec_stop, exec_transportFail, (stopOp_of_not_running hidle).1, (stopOp_of_not_running hidle).2]
    exact ⟨rfl, rfl⟩

/-! ### The default arm -/

theorem swsAck_of_not_awaiting {s : State} (h : s.sws.st ≠ .awaitingAck) : swsAck s = .ok s := if_neg h

theorem swsResend_of_not_awaiting {s : State} (h : s.sws.st ≠ .awaitingAck) : swsResend s = .ok s := if_neg h

theorem srsHsack_of_not_await {s : State} (h : s.srs.st ≠ .awaitHsAck) : srsHsack s = .ok s := if_neg h

theorem srsAck_of_not_await {s : State} (h : s.srs.st ≠ .awaitReply) (num : U16) : srsAck num s = .ok s := if_neg h

theorem srsNak_of_not_await {s : State} (h : s.srs.st ≠ .awaitReply) (num : U16) : srsNak num s = .ok s := if_neg h

theorem srsTimeout_of_not_await {s : State} (h : s.srs.st ≠ .awaitReply) : srsTimeout s = .ok s := if_neg h

theorem srrHs_of_not_await {s : State} (h : s.srr.st ≠ .awaitHs) (n w : I32) : srrHs n w s = s := if_neg h

theorem swrCase_of_not_receiving {s : State} (h : s.swr.st ≠ .receiving) (idx : U16) (frame : Bytes) :
    swrCase idx frame s = .unused := if_neg h

theorem srrCase_of_not_receiving {s : State} (h : s.srr.st ≠ .receiving) (idx : U16) (frame : Bytes) :
    srrCase idx frame s = .unused := if_neg h

theorem swrData_of_not_receiving {s : State} (h : s.swr.st ≠ .receiving) (idx : U16) (last : Bool) (frame : Bytes) :
    swrData idx last frame s = s := by
  rw [swrData, swrCase_of_not_receiving h]

theorem srrData_of_not_receiving {s : State} (h : s.srr.st ≠ .receiving) (idx : U16) (last : Bool) (frame : Bytes) :
    srrData idx last frame s = s := by
  rw [srrData, srrCase_of_not_receiving h]

/-- A reserved kind is ignored in every role (R91, R176, R207). -/
theorem rxCtrl_of_reserved {kind : Byte} (hack : kind ≠ Config.ackKind) (hnak : kind ≠ Config.nakKind) (num : U16)
    (s : State) : rxCtrl kind num s = .ok s := by
  unfold rxCtrl
  split <;> simp [hack, hnak]

/-- Data is for a receiver that is receiving alone (R241, R258). -/
theorem rxData_of_unused {s : State} (hswr : s.mode = .swRx → s.swr.st ≠ .receiving)
    (hsrr : s.mode = .srRx → s.srr.st ≠ .receiving) (idx : U16) (last : Bool) (frame : Bytes) :
    rxData idx last frame s = s := by
  unfold rxData
  split
  · exact swrData_of_not_receiving (hswr ‹_›) idx last frame
  · exact srrData_of_not_receiving (hsrr ‹_›) idx last frame
  all_goals rfl

/-- A handshake is for a receiver that awaits one alone (R241, R258). -/
theorem rxHs_of_unused {s : State} (h : s.mode ≠ .srRx ∨ s.srr.st ≠ .awaitHs) (n w : I32) : rxHs n w s = s := by
  unfold rxHs
  split
  · exact srrHs_of_not_await (h.resolve_left (not_not.2 ‹_›)) n w
  all_goals rfl

/-- A `NAK` is for a sender that awaits a reply alone (R258). -/
theorem rxCtrl_nak_of_unused {s : State} (hsws : s.mode = .swTx → s.sws.st ≠ .awaitingAck)
    (hsrs : s.mode = .srTx → s.srs.st ≠ .awaitReply) (num : U16) : rxCtrl Config.nakKind num s = .ok s := by
  have hne : ¬ Config.nakKind = Config.ackKind := by decide
  unfold rxCtrl
  split
  · simp [hne, swsResend_of_not_awaiting (hsws ‹_›)]
  · simp [hne, srsNak_of_not_await (hsrs ‹_›)]
  all_goals rfl

/-- An `ACK` is for a sender that awaits a reply alone (R258). -/
theorem rxCtrl_ack_of_unused {s : State} (hsws : s.mode = .swTx → s.sws.st ≠ .awaitingAck)
    (hsrs : s.mode = .srTx → s.srs.st ≠ .awaitReply) (hhs : s.mode = .srTx → s.srs.st ≠ .awaitHsAck) (num : U16) :
    rxCtrl Config.ackKind num s = .ok s := by
  unfold rxCtrl
  split
  · simp [swsAck_of_not_awaiting (hsws ‹_›)]
  · simp [hhs ‹_›, srsAck_of_not_await (hsrs ‹_›)]
  all_goals rfl

/-- A `TIMEOUT` is for a sender that awaits a reply alone (R258, R268). -/
theorem timeoutOp_of_unused {s : State} (hsws : s.mode = .swTx → s.sws.st ≠ .awaitingAck)
    (hsrs : s.mode = .srTx → s.srs.st ≠ .awaitReply) : timeoutOp s = .ok s := by
  unfold timeoutOp
  split
  · exact swsResend_of_not_awaiting (hsws ‹_›)
  · exact srsTimeout_of_not_await (hsrs ‹_›)
  all_goals rfl

theorem exec_swrData_of_unused {idx : U16} {frame : Bytes} {s : State} (h : swrCase idx frame s = .unused)
    (last : Bool) : exec (.swrDataValidFirst idx last frame) s = .next s ∧
      exec (.swrDataValidDup idx last frame) s = .next s ∧ exec (.swrDataInvalid idx last frame) s = .next s := by
  change execSwrDataValidFirst idx last frame s = _ ∧ execSwrDataValidDup idx last frame s = _ ∧
    execSwrDataInvalid idx last frame s = _
  rw [execSwrDataValidFirst, execSwrDataValidDup, execSwrDataInvalid, h]
  exact ⟨rfl, rfl, rfl⟩

theorem exec_srrData_of_unused {idx : U16} {frame : Bytes} {s : State} (h : srrCase idx frame s = .unused)
    (last : Bool) : exec (.srrDataOor idx last frame) s = .next s ∧
      exec (.srrDataValidFirst idx last frame) s = .next s ∧ exec (.srrDataValidDup idx last frame) s = .next s ∧
      exec (.srrDataInvalid idx last frame) s = .next s := by
  change execSrrDataOor idx last frame s = _ ∧ execSrrDataValidFirst idx last frame s = _ ∧
    execSrrDataValidDup idx last frame s = _ ∧ execSrrDataInvalid idx last frame s = _
  rw [execSrrDataOor, execSrrDataValidFirst, execSrrDataValidDup, execSrrDataInvalid, h]
  exact ⟨rfl, rfl, rfl, rfl⟩

/-- Settles O57: one lemma of the default arm for each kind of message, event and row. -/
theorem defaultArmChangesNothing : Obligations.DefaultArmChangesNothing := by
  intro kind b num idx n w last frame s
  have hok {r : Res} (h : r = .ok s) : r.outcome = .next s := congrArg Res.outcome h
  refine ⟨rfl, rfl, rfl, fun hack hnak => hok (rxCtrl_of_reserved hack hnak num s),
    fun hswr hsrr => hok (congrArg Except.ok (rxData_of_unused hswr hsrr idx _ frame)),
    fun h => hok (congrArg Except.ok (rxHs_of_unused h n w)),
    fun hsws hsrs => ⟨hok (rxCtrl_nak_of_unused hsws hsrs num), hok (timeoutOp_of_unused hsws hsrs), fun hhs => ?acks⟩,
    fun h => ⟨hok (swsAck_of_not_awaiting h), hok (swsResend_of_not_awaiting h), hok (swsResend_of_not_awaiting h)⟩,
    fun h => ?swr, fun h => hok (srsHsack_of_not_await h),
    fun h => ⟨hok (srsAck_of_not_await h num), hok (srsNak_of_not_await h num), hok (srsTimeout_of_not_await h)⟩,
    fun h => ⟨if_neg (fun hc => h hc.1), if_neg (fun hc => h hc.1)⟩,
    fun h => exec_srrData_of_unused (srrCase_of_not_receiving h idx frame) last⟩
  case acks =>
    have hack := hok (rxCtrl_ack_of_unused hsws hsrs hhs num)
    exact ⟨hack, hack⟩
  case swr =>
    obtain ⟨hfirst, hdup, hbad⟩ := exec_swrData_of_unused (swrCase_of_not_receiving h idx frame) last
    exact ⟨hfirst, hdup, hbad, if_neg h⟩

end Sys2Proof.Machine
end

section
/-!
PROOFS. What a row may write, whatever the state: every step of the block as one of a few forms, and the obligations
about all rows (the parameters, the consumption of the input, the output, the role, the canonical form of the arrays,
channel traffic, an ended session) (R11, R22, R29, R30, R249, R266, R274).
-/

-- The proofs one after the other: side by side, those of the whole text need more memory than the check allows.
set_option Elab.async false

namespace Sys2Proof.Machine

/-! ### The engine rules, and every event as one of a few forms -/

/-- The rules of the engines that consume an event, each once, whatever row or message presents it (R171 to R227). -/
inductive Rule where
  | swsAck
  | swsResend
  | swrData (idx : U16) (last : Bool) (frame : Bytes)
  | swrLast (idx : U16)
  | srsHsack
  | srsAck (num : U16)
  | srsNak (num : U16)
  | srsTimeout
  | srrHs (n w : I32)
  | srrData (idx : U16) (last : Bool) (frame : Bytes)

/-- The engine a rule belongs to. -/
def ruleEngine : Rule → Engine
  | .swsAck | .swsResend => .sws
  | .swrData .. | .swrLast .. => .swr
  | .srsHsack | .srsAck .. | .srsNak .. | .srsTimeout => .srs
  | .srrHs .. | .srrData .. => .srr

/-- The rule, under its own state condition (R258). -/
def runRule (r : Rule) (s : State) : Res :=
  match r with
  | .swsAck => swsAck s
  | .swsResend => swsResend s
  | .swrData idx last frame => .ok (swrData idx last frame s)
  | .swrLast idx => .ok (if s.swr.st = .receiving then swrLast idx s else s)
  | .srsHsack => srsHsack s
  | .srsAck num => srsAck num s
  | .srsNak num => srsNak num s
  | .srsTimeout => srsTimeout s
  | .srrHs n w => .ok (srrHs n w s)
  | .srrData idx last frame => .ok (srrData idx last frame s)

/-- What an input event or channel message does in a state: one of these. A message reaches a rule of the engine that
`MODE` names alone (R20, R241). -/
inductive EventForm (i : Instr) (s : State) : Prop
  | bareFrame (body : Bytes) (etx : Byte) (csum : U16) (h : i = .frame body etx csum)
  | reset (h : i = .reset)
  | start (r : StartReq) (h : startReqOf i = some r) (hwire : i.isWire = false)
  | stop (h : i = .stop)
  | transportFail (h : i = .transportFail)
  | ignored (h : exec i s = .next s)
  | rule (r : Rule) (h : exec i s = (runRule r s).outcome)
      (hrole : i.isWire = true → activeEngine s.mode = some (ruleEngine r))

/-- A control reply runs a rule of the active sender or is ignored (R241, R258). -/
theorem rxCtrl_form (kind : Byte) (num : U16) (s : State) : rxCtrl kind num s = .ok s ∨
    ∃ r, rxCtrl kind num s = runRule r s ∧ activeEngine s.mode = some (ruleEngine r) := by
  have hne : ¬ Config.nakKind = Config.ackKind := by decide
  by_cases hack : kind = Config.ackKind
  · subst kind
    cases hmode : s.mode with
    | swTx => exact .inr ⟨.swsAck, by simp [rxCtrl, hmode, runRule], rfl⟩
    | srTx =>
      by_cases hst : s.srs.st = .awaitHsAck
      · exact .inr ⟨.srsHsack, rxCtrl_ack_of_awaitHs hmode hst num, rfl⟩
      · exact .inr ⟨.srsAck num, rxCtrl_ack_of_srTx hmode hst num, rfl⟩
    | none | swRx | srRx => exact .inl (by rw [rxCtrl, hmode])
  by_cases hnak : kind = Config.nakKind
  · subst kind
    cases hmode : s.mode with
    | swTx => exact .inr ⟨.swsResend, by simp [rxCtrl, hmode, hne, runRule], rfl⟩
    | srTx => exact .inr ⟨.srsNak num, rxCtrl_nak_of_srTx hmode num, rfl⟩
    | none | swRx | srRx => exact .inl (by rw [rxCtrl, hmode])
  · exact .inl (rxCtrl_of_reserved hack hnak num s)

/-- Data runs the rule of the active receiver or is ignored (R241, R258). -/
theorem rxData_form (idx : U16) (last : Bool) (frame : Bytes) (s : State) : rxData idx last frame s = s ∨
    ∃ r, .ok (rxData idx last frame s) = runRule r s ∧ activeEngine s.mode = some (ruleEngine r) := by
  cases hmode : s.mode with
  | swRx => exact .inr ⟨.swrData idx last frame, by rw [rxData, hmode, runRule], rfl⟩
  | srRx => exact .inr ⟨.srrData idx last frame, by rw [rxData, hmode, runRule], rfl⟩
  | none | swTx | srTx => exact .inl (by rw [rxData, hmode])

/-- A handshake runs the rule of the Selective-Repeat receiver or is ignored (R241, R258). -/
theorem rxHs_form (n w : I32) (s : State) : rxHs n w s = s ∨
    ∃ r, .ok (rxHs n w s) = runRule r s ∧ activeEngine s.mode = some (ruleEngine r) := by
  cases hmode : s.mode with
  | srRx => exact .inr ⟨.srrHs n w, by rw [rxHs, hmode, runRule], rfl⟩
  | none | swTx | swRx | srTx => exact .inl (by rw [rxHs, hmode])

/-- A timeout runs the rule of the active sender or is ignored (R258, R268). -/
theorem timeoutOp_form (s : State) : timeoutOp s = .ok s ∨ ∃ r, timeoutOp s = runRule r s := by
  cases hmode : s.mode with
  | swTx => exact .inr ⟨.swsResend, by rw [timeoutOp, hmode, runRule]⟩
  | srTx => exact .inr ⟨.srsTimeout, by rw [timeoutOp, hmode, runRule]⟩
  | none | swRx | srRx => exact .inl (by rw [timeoutOp, hmode])

/-- A row that runs a rule, or is ignored. -/
theorem EventForm.of_res {i : Instr} {s : State} {x : Res} (hexec : exec i s = x.outcome)
    (h : x = .ok s ∨ ∃ r, x = runRule r s ∧ activeEngine s.mode = some (ruleEngine r)) : EventForm i s := by
  rcases h with h | ⟨r, h, hrole⟩
  · exact .ignored (by rw [hexec, h]; rfl)
  · exact .rule r (by rw [hexec, h]) fun _ => hrole

theorem EventForm.of_state {i : Instr} {s t : State} (hexec : exec i s = .next t)
    (h : t = s ∨ ∃ r, .ok t = runRule r s ∧ activeEngine s.mode = some (ruleEngine r)) : EventForm i s :=
  .of_res (x := .ok t) hexec (h.imp (congrArg Except.ok) id)

/-- A row for one case of an event: the rule if the event is of that case, else nothing (notes/assumptions/8.md). -/
theorem EventForm.of_case {i : Instr} {s t : State} (r : Rule) (hwire : i.isWire = false) (hrun : runRule r s = .ok t)
    (h : exec i s = .next t ∨ exec i s = .next s) : EventForm i s := by
  rcases h with h | h
  · exact .rule r (by rw [h, hrun]; rfl) fun hw => absurd (hwire.symm.trans hw) Bool.false_ne_true
  · exact .ignored h

theorem swrData_row_form (idx : U16) (last : Bool) (frame : Bytes) (s : State) :
    EventForm (.swrDataValidFirst idx last frame) s ∧ EventForm (.swrDataValidDup idx last frame) s ∧
      EventForm (.swrDataInvalid idx last frame) s := by
  have hrun : runRule (.swrData idx last frame) s = .ok (swrData idx last frame s) := rfl
  refine ⟨.of_case _ rfl hrun ?first, .of_case _ rfl hrun ?dup, .of_case _ rfl hrun ?bad⟩
  case first =>
    change execSwrDataValidFirst idx last frame s = _ ∨ execSwrDataValidFirst idx last frame s = _
    unfold execSwrDataValidFirst swrData
    cases swrCase idx frame s <;> simp
  case dup =>
    change execSwrDataValidDup idx last frame s = _ ∨ execSwrDataValidDup idx last frame s = _
    unfold execSwrDataValidDup swrData
    cases swrCase idx frame s <;> simp
  case bad =>
    change execSwrDataInvalid idx last frame s = _ ∨ execSwrDataInvalid idx last frame s = _
    unfold execSwrDataInvalid swrData
    cases swrCase idx frame s <;> simp

theorem srrData_row_form (idx : U16) (last : Bool) (frame : Bytes) (s : State) :
    EventForm (.srrDataOor idx last frame) s ∧ EventForm (.srrDataValidFirst idx last frame) s ∧
      EventForm (.srrDataValidDup idx last frame) s ∧ EventForm (.srrDataInvalid idx last frame) s := by
  have hrun : runRule (.srrData idx last frame) s = .ok (srrData idx last frame s) := rfl
  refine ⟨.of_case _ rfl hrun ?oor, .of_case _ rfl hrun ?first, .of_case _ rfl hrun ?dup, .of_case _ rfl hrun ?bad⟩
  case oor =>
    change execSrrDataOor idx last frame s = _ ∨ execSrrDataOor idx last frame s = _
    unfold execSrrDataOor srrData
    cases srrCase idx frame s <;> simp
  case first =>
    change execSrrDataValidFirst idx last frame s = _ ∨ execSrrDataValidFirst idx last frame s = _
    unfold execSrrDataValidFirst srrData
    cases srrCase idx frame s <;> simp
  case dup =>
    change execSrrDataValidDup idx last frame s = _ ∨ execSrrDataValidDup idx last frame s = _
    unfold execSrrDataValidDup srrData
    cases srrCase idx frame s <;> simp
  case bad =>
    change execSrrDataInvalid idx last frame s = _ ∨ execSrrDataInvalid idx last frame s = _
    unfold execSrrDataInvalid srrData
    cases srrCase idx frame s <;> simp

theorem srrHs_row_form (n w : I32) (s : State) :
    EventForm (.srrHs n w) s ∧ EventForm (.srrHsMalformed n w) s := by
  have hrun : runRule (.srrHs n w) s = .ok (srrHs n w s) := rfl
  refine ⟨.of_case _ rfl hrun ?legal, .of_case _ rfl hrun ?malformed⟩
  case legal =>
    by_cases h : s.srr.st = .awaitHs ∧ (legalN n && legalW w) = true
    · exact .inl (by rw [exec_srrHs_of_legal h.1 h.2, srrHs_of_legal h.1 h.2])
    · exact .inr (if_neg h)
  case malformed =>
    by_cases h : s.srr.st = .awaitHs ∧ (legalN n && legalW w) = false
    · exact .inl (by rw [exec_srrHsMalformed_of_illegal h.1 h.2, srrHs_of_illegal h.1 h.2])
    · exact .inr (if_neg h)

/-- Every event row has one of the forms. -/
theorem eventForm {i : Instr} (h : isEventRow i = true) (s : State) : EventForm i s := by
  cases i
  case frame body etx csum => exact .bareFrame body etx csum rfl
  case env idx last frame => exact .of_state rfl (rxData_form idx (lastOfByte last) frame s)
  case hs n w => exact .of_state rfl (rxHs_form n w s)
  case hsack p => exact .of_res rfl (rxCtrl_form Config.ackKind p s)
  case ack num => exact .of_res rfl (rxCtrl_form Config.ackKind num s)
  case nak num => exact .of_res rfl (rxCtrl_form Config.nakKind num s)
  case ctrlRsvd kind num => exact .of_res rfl (rxCtrl_form kind num s)
  case swsStart n chunks => exact .start _ rfl rfl
  case swsAck num => exact .rule .swsAck rfl nofun
  case swsNak num => exact .rule .swsResend rfl nofun
  case swsTimeout => exact .rule .swsResend rfl nofun
  case swsRsvd kind num => exact .ignored rfl
  case swrStart => exact .start _ rfl rfl
  case swrDataValidFirst idx last frame => exact (swrData_row_form idx last frame s).1
  case swrDataValidDup idx last frame => exact (swrData_row_form idx last frame s).2.1
  case swrDataInvalid idx last frame => exact (swrData_row_form idx last frame s).2.2
  case swrLast idx =>
    refine .rule (.swrLast idx) ?_ nofun
    change (if s.swr.st = .receiving then Host.Outcome.next (swrLast idx s) else .next s) = .next (if _ then _ else _)
    split <;> rfl
  case srsStart n w chunks => exact .start _ rfl rfl
  case srsHsack p => exact .rule .srsHsack rfl nofun
  case srsAck num => exact .rule (.srsAck num) rfl nofun
  case srsNak num => exact .rule (.srsNak num) rfl nofun
  case srsTimeout => exact .rule .srsTimeout rfl nofun
  case srsRsvd kind num => exact .ignored rfl
  case srrStart => exact .start _ rfl rfl
  case srrHs n w => exact (srrHs_row_form n w s).1
  case srrHsMalformed n w => exact (srrHs_row_form n w s).2
  case srrDataOor idx last frame => exact (srrData_row_form idx last frame s).1
  case srrDataValidFirst idx last frame => exact (srrData_row_form idx last frame s).2.1
  case srrDataValidDup idx last frame => exact (srrData_row_form idx last frame s).2.2.1
  case srrDataInvalid idx last frame => exact (srrData_row_form idx last frame s).2.2.2
  case reset => exact .reset rfl
  case startCommon r => exact .start r rfl rfl
  case stop => exact .stop rfl
  case transportFail => exact .transportFail rfl
  case timeout =>
    rcases timeoutOp_form s with h' | ⟨r, h'⟩
    · exact .ignored (congrArg Res.outcome h')
    · exact .rule r (congrArg Res.outcome h') nofun
  case ignore => exact .ignored rfl
  all_goals exact absurd h Bool.false_ne_true

end Sys2Proof.Machine
end

section
/-!
PROOFS. What each operation may write, as preorders on states built up from the record updates, and the obligations that
follow for all rows, for channel messages and for ended sessions (R11, R21, R22, R29, R30, R249, R266, R274).
-/

-- The proofs one after the other: side by side, those of the whole text need more memory than the check allows.
set_option Elab.async false

namespace Sys2Proof.Machine

/-! ### Three preorders on states -/

/-- What every operation keeps: the parameters and the rest of the input stay, the output only grows, and the arrays stay
canonical (R11, R29, R30). -/
structure Extends (s t : State) : Prop where
  par : t.par = s.par
  input : t.input = s.input
  tx : s.tx <+: t.tx
  free : s.free ≤ t.free
  form : Memory.wf s → Memory.wf t

/-- What every operation but RESET and a start keeps: it writes one engine's record at most, and neither the role nor a
chunk store (R21, R246). -/
structure Writes (x : Engine) (s t : State) : Prop extends Extends s t where
  mode : t.mode = s.mode
  swsChunk : t.sws.chunk = s.sws.chunk
  srsChunk : t.srs.chunk = s.srs.chunk
  sws : x ≠ .sws → t.sws = s.sws
  swr : x ≠ .swr → t.swr = s.swr
  srs : x ≠ .srs → t.srs = s.srs
  srr : x ≠ .srr → t.srr = s.srr

/-- Beside that, the counts and window sizes stay (R274). -/
structure WritesInPlace (x : Engine) (s t : State) : Prop extends Writes x s t where
  swsN : t.sws.n = s.sws.n
  srsN : t.srs.n = s.srs.n
  srsW : t.srs.w = s.srs.w
  srrN : t.srr.n = s.srr.n
  srrW : t.srr.w = s.srr.w

theorem Extends.trans {s t u : State} (h : Extends s t) (k : Extends t u) : Extends s u where
  par := k.par.trans h.par
  input := k.input.trans h.input
  tx := h.tx.trans k.tx
  free := Nat.le_trans h.free k.free
  form := fun hs => k.form (h.form hs)

theorem Writes.trans {x : Engine} {s t u : State} (h : Writes x s t) (k : Writes x t u) : Writes x s u where
  toExtends := h.toExtends.trans k.toExtends
  mode := k.mode.trans h.mode
  swsChunk := k.swsChunk.trans h.swsChunk
  srsChunk := k.srsChunk.trans h.srsChunk
  sws := fun hx => (k.sws hx).trans (h.sws hx)
  swr := fun hx => (k.swr hx).trans (h.swr hx)
  srs := fun hx => (k.srs hx).trans (h.srs hx)
  srr := fun hx => (k.srr hx).trans (h.srr hx)

theorem WritesInPlace.trans {x : Engine} {s t u : State} (h : WritesInPlace x s t) (k : WritesInPlace x t u) :
    WritesInPlace x s u where
  toWrites := h.toWrites.trans k.toWrites
  swsN := k.swsN.trans h.swsN
  srsN := k.srsN.trans h.srsN
  srsW := k.srsW.trans h.srsW
  srrN := k.srrN.trans h.srrN
  srrW := k.srrW.trans h.srrW

/-- The same, the later part given first. -/
theorem WritesInPlace.after {x : Engine} {s t u : State} (k : WritesInPlace x t u) (h : WritesInPlace x s t) :
    WritesInPlace x s u := h.trans k

theorem WritesInPlace.of_tx (x : Engine) (s : State) (l : List Message) :
    WritesInPlace x s { s with tx := s.tx ++ l } := by
  refine ⟨⟨⟨rfl, rfl, ⟨l, rfl⟩, le_rfl, id⟩, ?_, ?_, ?_, ?_, ?_, ?_, ?_⟩, ?_, ?_, ?_, ?_, ?_⟩ <;> intros <;> rfl

theorem WritesInPlace.refl (x : Engine) (s : State) : WritesInPlace x s s := by
  simpa using WritesInPlace.of_tx x s []

theorem WritesInPlace.emit (x : Engine) (s : State) (m : Message) : WritesInPlace x s (s.emit m) :=
  .of_tx x s [m]

theorem WritesInPlace.setRet (x : Engine) (s : State) (r : Ret) : WritesInPlace x s (s.setRet r) := by
  refine ⟨⟨⟨rfl, rfl, ⟨[], List.append_nil _⟩, le_rfl, id⟩, ?_, ?_, ?_, ?_, ?_, ?_, ?_⟩, ?_, ?_, ?_, ?_, ?_⟩ <;>
    intros <;> rfl

theorem WritesInPlace.bumpFree (x : Engine) (s : State) : WritesInPlace x s s.bumpFree := by
  refine ⟨⟨⟨rfl, rfl, ⟨[], List.append_nil _⟩, Nat.le_succ _, id⟩, ?_, ?_, ?_, ?_, ?_, ?_, ?_⟩, ?_, ?_, ?_, ?_, ?_⟩ <;>
    intros <;> rfl

/-- A write of SWS that keeps its chunks and their number. -/
theorem WritesInPlace.setSws {s : State} {e : Sws} (hchunk : e.chunk = s.sws.chunk) (hn : e.n = s.sws.n) :
    WritesInPlace .sws s (s.setSws e) where
  par := rfl
  input := rfl
  tx := ⟨[], List.append_nil _⟩
  free := le_rfl
  form := id
  mode := rfl
  swsChunk := hchunk
  srsChunk := rfl
  sws := fun h => absurd rfl h
  swr := fun _ => rfl
  srs := fun _ => rfl
  srr := fun _ => rfl
  swsN := hn
  srsN := rfl
  srsW := rfl
  srrN := rfl
  srrW := rfl

/-- A write of SWR that keeps its buffer canonical. -/
theorem WritesInPlace.setSwr {s : State} {e : Swr} (hrb : EntryArray.wf s.swr.rb → EntryArray.wf e.rb) :
    WritesInPlace .swr s (s.setSwr e) where
  par := rfl
  input := rfl
  tx := ⟨[], List.append_nil _⟩
  free := le_rfl
  form := fun ⟨h, hrest⟩ => ⟨hrb h, hrest⟩
  mode := rfl
  swsChunk := rfl
  srsChunk := rfl
  sws := fun _ => rfl
  swr := fun h => absurd rfl h
  srs := fun _ => rfl
  srr := fun _ => rfl
  swsN := rfl
  srsN := rfl
  srsW := rfl
  srrN := rfl
  srrW := rfl

/-- A write of SRS that keeps its chunks and the outstanding set canonical. -/
theorem Writes.setSrs {s : State} {e : Srs} (hchunk : e.chunk = s.srs.chunk)
    (houtst : BitArray.wf s.srs.outst → BitArray.wf e.outst) : Writes .srs s (s.setSrs e) where
  par := rfl
  input := rfl
  tx := ⟨[], List.append_nil _⟩
  free := le_rfl
  form := fun ⟨h1, h2, h3, hrest⟩ => ⟨h1, h2, houtst h3, hrest⟩
  mode := rfl
  swsChunk := rfl
  srsChunk := hchunk
  sws := fun _ => rfl
  swr := fun _ => rfl
  srs := fun h => absurd rfl h
  srr := fun _ => rfl

theorem WritesInPlace.setSrs {s : State} {e : Srs} (hchunk : e.chunk = s.srs.chunk) (hn : e.n = s.srs.n)
    (hw : e.w = s.srs.w) (houtst : BitArray.wf s.srs.outst → BitArray.wf e.outst) :
    WritesInPlace .srs s (s.setSrs e) :=
  ⟨.setSrs hchunk houtst, rfl, hn, hw, rfl, rfl⟩

theorem WritesInPlace.setSrs_tx {s : State} {e : Srs} (hchunk : e.chunk = s.srs.chunk) (hn : e.n = s.srs.n)
    (hw : e.w = s.srs.w) (houtst : BitArray.wf s.srs.outst → BitArray.wf e.outst) (l : List Message) :
    WritesInPlace .srs s { s with srs := e, tx := s.tx ++ l } :=
  (WritesInPlace.setSrs hchunk hn hw houtst).trans (.of_tx .srs (s.setSrs e) l)

/-- A write of SRR that keeps its three arrays canonical. -/
theorem Writes.setSrr {s : State} {e : Srr} (hflags : BitArray.wf s.srr.flags → BitArray.wf e.flags)
    (hnak : BitArray.wf s.srr.nakSent → BitArray.wf e.nakSent) (hrb : EntryArray.wf s.srr.rb → EntryArray.wf e.rb) :
    Writes .srr s (s.setSrr e) where
  par := rfl
  input := rfl
  tx := ⟨[], List.append_nil _⟩
  free := le_rfl
  form := fun ⟨h1, h2, h3, h4, h5⟩ => ⟨h1, hrb h2, h3, hflags h4, hnak h5⟩
  mode := rfl
  swsChunk := rfl
  srsChunk := rfl
  sws := fun _ => rfl
  swr := fun _ => rfl
  srs := fun _ => rfl
  srr := fun h => absurd rfl h

theorem WritesInPlace.setSrr {s : State} {e : Srr} (hn : e.n = s.srr.n) (hw : e.w = s.srr.w)
    (hflags : BitArray.wf s.srr.flags → BitArray.wf e.flags) (hnak : BitArray.wf s.srr.nakSent → BitArray.wf e.nakSent)
    (hrb : EntryArray.wf s.srr.rb → EntryArray.wf e.rb) : WritesInPlace .srr s (s.setSrr e) :=
  ⟨.setSrr hflags hnak hrb, rfl, rfl, rfl, hn, hw⟩

/-! ### The shared operations -/

theorem sendPacket_writes {e : Sender} {k : Nat} {s t : State} (h : sendPacket e k s = .ok t) (x : Engine) :
    WritesInPlace x s t := by
  obtain ⟨m, rfl⟩ := sendPacket_frame h
  exact .of_tx x s [m]

theorem sendAll_writes {e : Sender} {ks : List Nat} {s t : State} (h : sendAll e ks s = .ok t) (x : Engine) :
    WritesInPlace x s t := by
  obtain ⟨l, rfl⟩ := sendAll_frame h
  exact .of_tx x s l

theorem winFill_writes {s t : State} (h : winFill s = .ok t) : WritesInPlace .srs s t := by
  obtain ⟨l, rfl⟩ := winFill_frame h
  refine .setSrs_tx ?_ ?_ ?_ (fun hwf => ?_) l
  · rfl
  · rfl
  · rfl
  · exact addRange_wf hwf _ _

/-- The error entry and STOP write one engine's state (R266, R269). -/
theorem raiseError_writes (x : Engine) (err : Err) (s : State) : WritesInPlace x s (raiseError x err s) := by
  cases x
  · exact .setSws rfl rfl
  · exact .setSwr id
  · exact .setSrs rfl rfl rfl id
  · exact .setSrr rfl rfl id id id

theorem stopEngine_writes (x : Engine) (s : State) : WritesInPlace x s (stopEngine x s) := by
  cases x
  · exact .setSws rfl rfl
  · exact .setSwr id
  · exact .setSrs rfl rfl rfl id
  · exact .setSrr rfl rfl id id id

theorem setRetry_writes (e : Sender) (k : Nat) (s : State) : WritesInPlace (senderEngine e) s (setRetry e k s) := by
  cases e
  · exact .setSws rfl rfl
  · exact .setSrs rfl rfl rfl id

/-- `RETRY_TAKE` and what comes after it, if that writes the sender's engine alone (R164). -/
theorem retryThen_writes {e : Sender} {s t : State} {go : State → Res}
    (hgo : ∀ u v, go u = .ok v → WritesInPlace (senderEngine e) u v) (h : retryThen e s go = .ok t) :
    WritesInPlace (senderEngine e) s t := by
  rcases retryThen_cases e s go with ⟨-, hspent⟩ | ⟨-, hleft⟩
  · rw [hspent] at h
    cases h
    exact raiseError_writes _ _ _
  · rw [hleft] at h
    exact (setRetry_writes e _ s).trans (hgo _ _ h)

theorem concatOr_writes (rb : EntryArray) (n : Nat) (s : State) (x : Engine) :
    WritesInPlace x s (concatOr rb n s).2 := by
  by_cases h : full rb n
  · rw [concatOr_of_full h]
    exact .refl x s
  · rw [concatOr_of_not_full h]
    exact .bumpFree x s

/-! ### The rules of the engines -/

theorem swsAck_writes {s t : State} (h : swsAck s = .ok t) : WritesInPlace .sws s t := by
  have hadvance : WritesInPlace .sws s (swsAdvance s) := by
    rw [swsAdvance_eq]
    exact .setSws rfl rfl
  unfold swsAck at h
  split_ifs at h
  · cases h
    exact hadvance.trans (.setSws rfl rfl)
  · exact hadvance.trans (sendPacket_writes h _)
  · cases h
    exact .refl _ _

theorem swsResend_writes {s t : State} (h : swsResend s = .ok t) : WritesInPlace .sws s t := by
  unfold swsResend at h
  split_ifs at h
  · exact retryThen_writes (e := .sws) (fun _ _ hgo => sendPacket_writes hgo _) h
  · cases h
    exact .refl _ _

theorem handoff_writes (n : Nat) (s : State) : WritesInPlace .swr s (handoff n s) := by
  by_cases h : full s.swr.rb n
  · rw [handoff_of_full h]
    exact .emit _ _ _
  · rw [handoff_of_not_full h]
    exact .setSwr id

theorem swrHandoff_writes (s : State) : WritesInPlace .swr s (swrHandoff s) := by
  cases h : s.swr.lastIdx with
  | some idx =>
    rw [swrHandoff_of_index h]
    exact handoff_writes _ s
  | none =>
    rw [swrHandoff_of_absent h]
    exact (WritesInPlace.bumpFree _ s).trans (handoff_writes _ _)

theorem swrLast_writes (idx : U16) (s : State) : WritesInPlace .swr s (swrLast idx s) :=
  .after (swrHandoff_writes _) (.setSwr id)

theorem swrAccept_writes (idx : U16) (last : Bool) (s : State) : WritesInPlace .swr s (swrAccept idx last s) := by
  have hack : WritesInPlace .swr s
      ((s.setSwr { s.swr with rxStat := .ok }).emit (.ctrl Config.ackKind (swrAckNum idx))) :=
    .after (.emit _ _ _) (.setSwr id)
  cases last
  · exact hack
  · exact hack.trans (swrLast_writes idx _)

theorem swrData_writes (idx : U16) (last : Bool) (frame : Bytes) (s : State) :
    WritesInPlace .swr s (swrData idx last frame s) := by
  unfold swrData
  split
  · exact .after (swrAccept_writes idx last _) (.setSwr fun hwf => storeIfAbsent_wf hwf _ _)
  · exact swrAccept_writes idx last s
  · exact .after (.emit _ _ _) (.setSwr id)
  · exact .refl _ _

theorem srsHsack_writes {s t : State} (h : srsHsack s = .ok t) : WritesInPlace .srs s t := by
  unfold srsHsack at h
  split_ifs at h
  · split at h
    · cases h
    · rename_i hfill
      cases h
      exact (winFill_writes hfill).trans (.setSrs rfl rfl rfl id)
  · cases h
    exact .refl _ _

theorem winAck_writes (num : U16) (s : State) : WritesInPlace .srs s (winAck num s) := by
  unfold winAck
  split
  · exact .setSrs rfl rfl rfl fun hwf => clearBit_wf hwf _
  · exact .refl _ _

theorem winAdvance_writes (s : State) : WritesInPlace .srs s (winAdvance s) := .setSrs rfl rfl rfl id

theorem srsAckWindow_writes (num : U16) (s : State) : WritesInPlace .srs s (srsAckWindow num s) := by
  refine .trans ?_ (winAdvance_writes _)
  split
  · exact (winAck_writes num s).trans (setRetry_writes .srs 0 _)
  · exact winAck_writes num s

theorem srsAck_writes {num : U16} {s t : State} (h : srsAck num s = .ok t) : WritesInPlace .srs s t := by
  unfold srsAck at h
  simp only at h
  split_ifs at h
  · cases h
    exact (srsAckWindow_writes num s).trans (.setSrs rfl rfl rfl id)
  · exact (srsAckWindow_writes num s).trans (winFill_writes h)
  · cases h
    exact .refl _ _

theorem srsNak_writes {num : U16} {s t : State} (h : srsNak num s = .ok t) : WritesInPlace .srs s t := by
  unfold srsNak at h
  split_ifs at h
  · cases h
    exact .refl _ _
  · exact retryThen_writes (e := .srs) (fun _ _ hgo => sendPacket_writes hgo _) h
  · cases h
    exact .refl _ _

theorem srsTimeout_writes {s t : State} (h : srsTimeout s = .ok t) : WritesInPlace .srs s t := by
  unfold srsTimeout at h
  split_ifs at h
  · exact retryThen_writes (e := .srs) (fun _ _ hgo => sendAll_writes hgo _) h
  · cases h
    exact .refl _ _

/-- The handshake alone writes `N` and `W` of the receiver (R217). -/
theorem srrHs_writes (n w : I32) (s : State) : Writes .srr s (srrHs n w s) := by
  unfold srrHs
  split_ifs
  · refine Writes.trans (Writes.setSrr ?_ ?_ ?_) (WritesInPlace.emit _ _ _).toWrites
    all_goals exact fun _ => List.Pairwise.nil
  · exact (raiseError_writes .srr _ s).toWrites
  · exact (WritesInPlace.refl _ s).toWrites

theorem rxMark_writes (idx : U16) (c : Bytes) (s : State) : WritesInPlace .srr s (rxMark idx c s) := by
  unfold rxMark
  split
  · exact .setSrr rfl rfl (fun hwf => setBit_wf hwf _) id (fun hwf => storeIfAbsent_wf hwf _ _)
  · exact .refl _ _

theorem nakOnce_writes (idx : U16) (s : State) : WritesInPlace .srr s (nakOnce idx s) := by
  unfold nakOnce
  split
  · exact .setSrr rfl rfl id (fun hwf => setBit_wf hwf _) id
  · exact .refl _ _

theorem srrAccept_writes (idx : U16) (last : Bool) (s : State) : WritesInPlace .srr s (srrAccept idx last s) :=
  .after (.emit _ _ _) (.setSrr rfl rfl id id id)

theorem srrComplete_writes (s : State) : WritesInPlace .srr s (srrComplete s) := by
  unfold srrComplete
  split
  · exact (concatOr_writes _ _ s .srr).trans (.trans (.emit _ _ _) (.setSrr rfl rfl id id id))
  · exact .refl _ _

theorem srrBad_writes (idx : U16) (status : RxStat) (s : State) : WritesInPlace .srr s (srrBad idx status s) := by
  have hstatus : WritesInPlace .srr s (s.setSrr { s.srr with rxStat := status }) := .setSrr rfl rfl id id id
  unfold srrBad
  simp only
  split
  · exact hstatus.trans ((nakOnce_writes idx _).trans (.emit _ _ _))
  · exact hstatus

theorem srrData_writes (idx : U16) (last : Bool) (frame : Bytes) (s : State) :
    WritesInPlace .srr s (srrData idx last frame s) := by
  unfold srrData
  split
  · exact .setSrr rfl rfl id id id
  · exact (rxMark_writes idx _ s).trans ((srrAccept_writes idx last _).trans (srrComplete_writes _))
  · exact srrAccept_writes idx last s
  · exact srrBad_writes idx _ s
  · exact .refl _ _

/-- Every rule writes its own engine alone, and only the handshake at a receiver that awaits it changes a count or a
window size. -/
theorem runRule_writes {r : Rule} {s t : State} (h : runRule r s = .ok t) :
    Writes (ruleEngine r) s t ∧ (s.srr.st ≠ .awaitHs → WritesInPlace (ruleEngine r) s t) ∧
      (ruleEngine r ≠ .srr → WritesInPlace (ruleEngine r) s t) := by
  have hplace (hw : WritesInPlace (ruleEngine r) s t) : Writes (ruleEngine r) s t ∧
      (s.srr.st ≠ .awaitHs → WritesInPlace (ruleEngine r) s t) ∧
      (ruleEngine r ≠ .srr → WritesInPlace (ruleEngine r) s t) := ⟨hw.toWrites, fun _ => hw, fun _ => hw⟩
  cases r with
  | swsAck => exact hplace (swsAck_writes h)
  | swsResend => exact hplace (swsResend_writes h)
  | swrData idx last frame =>
    cases h
    exact hplace (swrData_writes idx last frame s)
  | swrLast idx =>
    cases h
    refine hplace ?_
    split
    · exact swrLast_writes idx s
    · exact .refl _ _
  | srsHsack => exact hplace (srsHsack_writes h)
  | srsAck num => exact hplace (srsAck_writes h)
  | srsNak num => exact hplace (srsNak_writes h)
  | srsTimeout => exact hplace (srsTimeout_writes h)
  | srrHs n w =>
    cases h
    refine ⟨srrHs_writes n w s, fun hst => ?_, fun hne => absurd rfl hne⟩
    rw [srrHs_of_not_await hst]
    exact .refl _ _
  | srrData idx last frame =>
    cases h
    exact hplace (srrData_writes idx last frame s)

theorem stopOp_writes (s : State) : ∃ x, WritesInPlace x s (stopOp s) := by
  unfold stopOp
  split
  · exact ⟨.sws, .refl _ _⟩
  · split_ifs
    · exact ⟨_, stopEngine_writes _ s⟩
    · exact ⟨.sws, .refl _ _⟩

theorem transportFailOp_writes (s : State) : ∃ x, WritesInPlace x s (transportFailOp s) := by
  unfold transportFailOp
  split
  · exact ⟨.sws, .refl _ _⟩
  · split_ifs
    · exact ⟨_, raiseError_writes _ _ s⟩
    · exact ⟨.sws, .refl _ _⟩

/-! ### All rows -/

theorem writeElement_writes (w : Store) (s : State) : ∃ x, WritesInPlace x s (writeElement w s) := by
  cases w
  · exact ⟨.swr, .setSwr fun hwf => storeIfAbsent_wf hwf _ _⟩
  · exact ⟨.srr, .setSrr rfl rfl id id fun hwf => storeIfAbsent_wf hwf _ _⟩
  · exact ⟨.srs, .setSrs rfl rfl rfl fun hwf => writeBit_wf hwf _ _⟩
  · exact ⟨.srr, .setSrr rfl rfl (fun hwf => writeBit_wf hwf _ _) id id⟩
  · exact ⟨.srr, .setSrr rfl rfl id (fun hwf => writeBit_wf hwf _ _) id⟩

theorem eventRow_writes {i : Instr} {s t : State} (hev : isEventRow i = true) (h : exec i s = .next t)
    (hreset : i ≠ .reset) (hstart : startReqOf i = none) : ∃ x, Writes x s t := by
  cases eventForm hev s with
  | bareFrame body etx csum hi =>
    subst hi
    cases h
    exact ⟨.sws, (WritesInPlace.setRet _ s _).toWrites⟩
  | reset hi => exact absurd hi hreset
  | start r hr => rw [hstart] at hr; cases hr
  | stop hi =>
    subst hi
    cases h
    obtain ⟨x, hx⟩ := stopOp_writes s
    exact ⟨x, hx.toWrites⟩
  | transportFail hi =>
    subst hi
    cases h
    obtain ⟨x, hx⟩ := transportFailOp_writes s
    exact ⟨x, hx.toWrites⟩
  | ignored hs =>
    rw [hs] at h
    cases h
    exact ⟨.sws, (WritesInPlace.refl _ s).toWrites⟩
  | rule r hr =>
    rw [hr] at h
    exact ⟨_, (runRule_writes (outcome_eq_next.1 h)).1⟩

theorem exists_writes_of_setRet {s t u : State} {x : Engine} {v : Ret} (hu : Writes x s u)
    (h : (Host.Outcome.next (u.setRet v) : Host.Outcome State Fault Refusal) = .next t) : ∃ x, Writes x s t := by
  cases h
  exact ⟨x, hu.trans (WritesInPlace.setRet x u v).toWrites⟩

/-- No row but RESET and the starts writes the role or a chunk store, and each writes one engine at most (R21, R246). -/
theorem exec_writes {i : Instr} {s t : State} (h : exec i s = .next t) (hreset : i ≠ .reset)
    (hstart : startReqOf i = none) : ∃ x, Writes x s t := by
  by_cases hev : isEventRow i = true
  · exact eventRow_writes hev h hreset hstart
  have hself := (WritesInPlace.refl .sws s).toWrites
  cases i
  case seqInc =>
    cases h
    exact ⟨.sws, (WritesInPlace.setSws (s := s) (e := (seqInc s).sws) rfl rfl).toWrites⟩
  case winInit n w =>
    cases h
    exact ⟨.srs, .setSrs rfl fun _ => List.Pairwise.nil⟩
  case winFill => exact ⟨.srs, (winFill_writes (outcome_eq_next.1 h)).toWrites⟩
  case fill => exact ⟨.srs, (winFill_writes (outcome_eq_next.1 h)).toWrites⟩
  case winAck num => exact exists_writes_of_setRet (winAck_writes num s).toWrites h
  case winAdvance =>
    cases h
    exact ⟨.srs, (winAdvance_writes s).toWrites⟩
  case rxMark idx c =>
    change execRxMark idx c s = _ at h
    unfold execRxMark at h
    split_ifs at h
    exact exists_writes_of_setRet (rxMark_writes idx c s).toWrites h
  case nakOnce idx =>
    change execNakOnce idx s = _ at h
    unfold execNakOnce at h
    split_ifs at h
    exact exists_writes_of_setRet (nakOnce_writes idx s).toWrites h
  case retryTake e =>
    refine ⟨senderEngine e, (retryThen_writes (fun u v hgo => ?_) (outcome_eq_next.1 h)).toWrites⟩
    cases hgo
    exact .refl _ _
  case memRead a k =>
    change execMemRead a k s = _ at h
    unfold execMemRead at h
    split_ifs at h
    exact exists_writes_of_setRet hself h
  case memWrite w =>
    change execMemWrite w s = _ at h
    unfold execMemWrite at h
    split_ifs at h
    cases h
    obtain ⟨x, hx⟩ := writeElement_writes w s
    exact ⟨x, hx.toWrites⟩
  case concat r n => exact exists_writes_of_setRet (concatOr_writes (receiverRb r s) n s .sws).toWrites h
  case send e k => exact ⟨.sws, (sendPacket_writes (outcome_eq_next.1 h) _).toWrites⟩
  case resendAll => exact ⟨.sws, (sendAll_writes (outcome_eq_next.1 h) _).toWrites⟩
  case swsSend => exact ⟨.sws, (sendPacket_writes (outcome_eq_next.1 h) _).toWrites⟩
  case swrHandoff =>
    cases h
    exact ⟨.swr, (swrHandoff_writes s).toWrites⟩
  case txHs n w =>
    cases h
    exact ⟨.sws, (WritesInPlace.emit _ s _).toWrites⟩
  case txData idx last frame =>
    cases h
    exact ⟨.sws, (WritesInPlace.emit _ s _).toWrites⟩
  case txCtrl kind num =>
    cases h
    exact ⟨.sws, (WritesInPlace.emit _ s _).toWrites⟩
  case sink bytes =>
    cases h
    exact ⟨.sws, (WritesInPlace.emit _ s _).toWrites⟩
  all_goals try exact absurd rfl hev
  all_goals exact exists_writes_of_setRet hself h

/-! ### RESET, the starts and one step -/

theorem Extends.setMode (s : State) (m : Mode) : Extends s (s.setMode m) :=
  ⟨rfl, rfl, ⟨[], List.append_nil _⟩, le_rfl, id⟩

theorem Extends.setSws (s : State) (e : Sws) : Extends s (s.setSws e) :=
  ⟨rfl, rfl, ⟨[], List.append_nil _⟩, le_rfl, id⟩

theorem resetOp_extends (s : State) : Extends s (resetOp s) :=
  ⟨rfl, rfl, ⟨[], List.append_nil _⟩, le_rfl, fun _ => reset_memory_wf⟩

/-- A start keeps what every operation keeps, and takes the role if none was taken (R249). -/
theorem startOp_extends {r : StartReq} {s t : State} (h : startOp r s = .ok t) :
    Extends s t ∧ (s.mode = .none → t.mode ≠ .none) := by
  by_cases hmode : s.mode = .none
  · cases r with
    | swTx n chunks =>
      change swsStart n chunks s = .ok t at h
      unfold swsStart at h
      rw [if_pos hmode] at h
      split_ifs at h
      · have hsend := sendPacket_writes h .sws
        refine ⟨((Extends.setMode s .swTx).trans (.setSws _ _)).trans hsend.toExtends, fun _ => ?_⟩
        rw [hsend.mode]
        exact nofun
      · cases h
        exact ⟨(Extends.setMode s .swTx).trans (raiseError_writes .sws _ _).toExtends, fun _ => nofun⟩
    | swRx =>
      cases h
      rw [swrStart, if_pos hmode]
      refine ⟨(Extends.setMode s .swRx).trans (WritesInPlace.setSwr ?_).toExtends, fun _ => nofun⟩
      exact fun _ => List.Pairwise.nil
    | srTx n w chunks =>
      cases h
      by_cases hlegal : (legalN n && legalW w) = true
      · rw [srsStart_of_legal hmode hlegal]
        refine ⟨⟨rfl, rfl, ⟨[.hs n w], rfl⟩, le_rfl, fun ⟨h1, h2, _, h4⟩ => ?_⟩, fun _ => nofun⟩
        exact ⟨h1, h2, List.Pairwise.nil, h4⟩
      · rw [srsStart_of_illegal hmode (by simpa using hlegal)]
        exact ⟨⟨rfl, rfl, ⟨[], List.append_nil _⟩, le_rfl, id⟩, fun _ => nofun⟩
    | srRx =>
      cases h
      rw [srrStart_of_none hmode]
      refine ⟨⟨rfl, rfl, ⟨[], List.append_nil _⟩, le_rfl, fun ⟨h1, _, h3, _⟩ => ?_⟩, fun _ => nofun⟩
      exact ⟨h1, List.Pairwise.nil, h3, List.Pairwise.nil, List.Pairwise.nil⟩
  · rw [startOp_of_role hmode] at h
    cases h
    exact ⟨(WritesInPlace.refl .sws s).toExtends, fun hnone => absurd hnone hmode⟩

theorem exec_extends {i : Instr} {s t : State} (h : exec i s = .next t) : Extends s t := by
  by_cases hreset : i = .reset
  · subst hreset
    cases h
    exact resetOp_extends s
  cases hstart : startReqOf i with
  | none =>
    obtain ⟨x, hx⟩ := exec_writes h hreset hstart
    exact hx.toExtends
  | some r =>
    rw [exec_of_startReq hstart] at h
    exact (startOp_extends (outcome_eq_next.1 h)).1

/-- A step that gives a state waited, or ran the item it consumed (R11). -/
theorem step_cases {s t : State} (h : step s = .next t) : (s.input = [] ∧ t = s) ∨
    ∃ it rest i, s.input = it :: rest ∧ decode s.par.maxChunk it = .ok i ∧ exec i (s.setInput rest) = .next t := by
  cases hin : s.input with
  | nil =>
    rw [step_of_no_input hin] at h
    cases h
    exact .inl ⟨rfl, rfl⟩
  | cons it rest =>
    cases hdec : decode s.par.maxChunk it with
    | error why =>
      rw [step_of_decode_error hin hdec] at h
      cases h
    | ok i =>
      rw [step_of_decode_ok hin hdec] at h
      exact .inr ⟨it, rest, i, rfl, hdec, h⟩

/-! ### The obligations about all rows -/

/-- Settles O9: `exec_extends`, the rest of the input being no array. -/
theorem everyStepKeepsMemoryForm : Obligations.EveryStepKeepsMemoryForm := by
  intro s t hwf h
  rcases step_cases h with ⟨-, rfl⟩ | ⟨it, rest, i, -, -, hexec⟩
  · exact hwf
  · exact (exec_extends hexec).form hwf

/-- Settles O10: `exec_extends` from the state with the item taken away. -/
theorem everyStepConsumesOneAndOnlyAppends : Obligations.EveryStepConsumesOneAndOnlyAppends := by
  intro s t h
  rcases step_cases h with ⟨hin, rfl⟩ | ⟨it, rest, i, hin, -, hexec⟩
  · exact ⟨rfl, by rw [hin]; rfl, ⟨[], List.append_nil _⟩, le_rfl⟩
  · have hext := exec_extends hexec
    exact ⟨hext.par, by rw [hin]; exact hext.input, hext.tx, hext.free⟩

/-- A row that is a start is one of the five. -/
theorem start_rows {i : Instr} {r : StartReq} (h : startReqOf i = some r) : (∃ r, i = .startCommon r) ∨
    (∃ n chunks, i = .swsStart n chunks) ∨ i = .swrStart ∨ (∃ n w chunks, i = .srsStart n w chunks) ∨
      i = .srrStart := by
  unfold startReqOf at h
  split at h <;> simp at h ⊢

/-- Settles O11: `exec_writes` for the rows that are no start, `startOp_extends` for those that are. -/
theorem onlyResetAndStartsWriteRole : Obligations.OnlyResetAndStartsWriteRole := by
  intro i s t h hreset
  cases hstart : startReqOf i with
  | none =>
    obtain ⟨x, hx⟩ := exec_writes h hreset hstart
    exact ⟨fun _ => ⟨hx.mode, hx.swsChunk, hx.srsChunk⟩, fun _ _ => ⟨hx.swsChunk, hx.srsChunk⟩,
      fun hnone hrole => absurd (hx.mode.trans hnone) hrole⟩
  | some r =>
    rw [exec_of_startReq hstart, outcome_eq_next] at h
    refine ⟨fun hrole => ?_, fun hnone hnone' => absurd hnone' ((startOp_extends h).2 hnone), fun _ _ => start_rows hstart⟩
    rw [startOp_of_role hrole] at h
    cases h
    exact ⟨rfl, rfl, rfl⟩

/-- A channel message is an event of the block (R97). -/
theorem isEventRow_of_isWire {i : Instr} (h : i.isWire = true) : isEventRow i = true := by
  cases hclass : i.rowClass with
  | wire fmt => rw [isEventRow, hclass]
  | event => rw [isEventRow, hclass]
  | function =>
    rw [Instr.isWire, hclass] at h
    cases h
  | message =>
    rw [Instr.isWire, hclass] at h
    cases h

/-- The role of an engine (R20). -/
def engineMode : Engine → Mode
  | .sws => .swTx
  | .swr => .swRx
  | .srs => .srTx
  | .srr => .srRx

theorem mode_of_activeEngine {m : Mode} {x : Engine} (h : activeEngine m = some x) : m = engineMode x := by
  cases m <;> cases h <;> rfl

/-- Settles O12: a message runs a rule of the engine `MODE` names, which writes that engine alone (`runRule_writes`). -/
theorem peerTrafficIsConfined : Obligations.PeerTrafficIsConfined := by
  intro i s t hwire h
  cases eventForm (isEventRow_of_isWire hwire) s with
  | bareFrame body etx csum hi =>
    subst hi
    cases h
    simp
  | reset hi => subst hi; exact absurd hwire Bool.false_ne_true
  | start r hr hnot => exact absurd (hnot.symm.trans hwire) Bool.false_ne_true
  | stop hi => subst hi; exact absurd hwire Bool.false_ne_true
  | transportFail hi => subst hi; exact absurd hwire Bool.false_ne_true
  | ignored hs =>
    rw [hs] at h
    cases h
    simp
  | rule r hr hrole =>
    rw [hr, outcome_eq_next] at h
    obtain ⟨hw, hopen, hother⟩ := runRule_writes h
    have hactive := hrole hwire
    have hsizes : t.sws.n = s.sws.n ∧ t.srs.n = s.srs.n ∧ t.srs.w = s.srs.w := by
      by_cases hsrr : ruleEngine r = .srr
      · rw [hw.sws (by simp [hsrr]), hw.srs (by simp [hsrr])]
        exact ⟨rfl, rfl, rfl⟩
      · exact ⟨(hother hsrr).swsN, (hother hsrr).srsN, (hother hsrr).srsW⟩
    have hengine {m : Mode} {x : Engine} (hm : activeEngine m = some x) (hne : s.mode ≠ m) : ruleEngine r ≠ x := by
      rintro rfl
      exact hne ((mode_of_activeEngine hactive).trans (mode_of_activeEngine hm).symm)
    exact ⟨hw.mode, hw.par, hw.swsChunk, hw.srsChunk, hsizes.1, hsizes.2.1, hsizes.2.2,
      fun hst => ⟨(hopen hst).srrN, (hopen hst).srrW⟩, fun hm => hw.sws (hengine (m := .swTx) rfl hm),
      fun hm => hw.swr (hengine (m := .swRx) rfl hm), fun hm => hw.srs (hengine (m := .srTx) rfl hm),
      fun hm => hw.srr (hengine (m := .srRx) rfl hm)⟩

/-! ### An ended session -/

/-- An engine that runs is the one `MODE` names (R20, R21). -/
theorem active_of_running {s : State} (hrole : RoleInv s) {x : Engine} (hrun : running x s = true) :
    activeEngine s.mode = some x := by
  obtain ⟨-, hsws, -, hswr, -, hsrs, -, hsrr⟩ := hrole
  cases x with
  | sws =>
    by_cases hmode : s.mode = .swTx
    · rw [hmode]; rfl
    · rw [running, hsws hmode] at hrun; cases hrun
  | swr =>
    by_cases hmode : s.mode = .swRx
    · rw [hmode]; rfl
    · rw [running, hswr hmode] at hrun; cases hrun
  | srs =>
    by_cases hmode : s.mode = .srTx
    · rw [hmode]; rfl
    · rw [running, hsrs hmode] at hrun; cases hrun
  | srr =>
    by_cases hmode : s.mode = .srRx
    · rw [hmode]; rfl
    · rw [running, hsrr hmode] at hrun; cases hrun

/-- A rule of an engine that does not run is ignored (R22, R258). -/
theorem runRule_of_not_running {r : Rule} {s : State} (h : running (ruleEngine r) s = false) : runRule r s = .ok s := by
  cases r with
  | swsAck => exact swsAck_of_not_awaiting fun e => by simp [running, ruleEngine, e, SwsSt.running] at h
  | swsResend => exact swsResend_of_not_awaiting fun e => by simp [running, ruleEngine, e, SwsSt.running] at h
  | swrData idx last frame =>
    exact congrArg Except.ok (swrData_of_not_receiving
      (fun e => by simp [running, ruleEngine, e, SwrSt.running] at h) idx last frame)
  | swrLast idx =>
    exact congrArg Except.ok (if_neg fun e => by simp [running, ruleEngine, e, SwrSt.running] at h)
  | srsHsack => exact srsHsack_of_not_await fun e => by simp [running, ruleEngine, e, SrsSt.running] at h
  | srsAck num => exact srsAck_of_not_await (fun e => by simp [running, ruleEngine, e, SrsSt.running] at h) num
  | srsNak num => exact srsNak_of_not_await (fun e => by simp [running, ruleEngine, e, SrsSt.running] at h) num
  | srsTimeout => exact srsTimeout_of_not_await fun e => by simp [running, ruleEngine, e, SrsSt.running] at h
  | srrHs n w =>
    exact congrArg Except.ok (srrHs_of_not_await (fun e => by simp [running, ruleEngine, e, SrrSt.running] at h) n w)
  | srrData idx last frame =>
    exact congrArg Except.ok (srrData_of_not_receiving
      (fun e => by simp [running, ruleEngine, e, SrrSt.running] at h) idx last frame)

/-- Settles O13: in an ended session no engine runs, so that every form of an event is ignored. -/
theorem endedSessionIsFrozen : Obligations.EndedSessionIsFrozen := by
  intro i s hrole hended hev hreset hframe
  have hidle (x : Engine) : running x s = false := by
    cases hrun : running x s
    · rfl
    · exact hrun.symm.trans (not_running_of_ended hended x (active_of_running hrole hrun))
  have hmode : s.mode ≠ .none := by
    rcases hended with ⟨h, -⟩ | ⟨h, -⟩ | ⟨h, -⟩ | ⟨h, -⟩ <;> rw [h] <;> exact nofun
  obtain ⟨hstop, hfail⟩ := stopOp_of_not_running fun x _ => hidle x
  cases eventForm hev s with
  | bareFrame body etx csum hi => exact absurd hi (hframe body etx csum)
  | reset hi => exact absurd hi hreset
  | start r hr =>
    rw [exec_of_startReq hr, startOp_of_role hmode]
    rfl
  | stop hi =>
    subst hi
    rw [exec_stop, hstop]
  | transportFail hi =>
    subst hi
    rw [exec_transportFail, hfail]
  | ignored hs => exact hs
  | rule r hr =>
    rw [hr, runRule_of_not_running (hidle _)]
    rfl

end Sys2Proof.Machine
end

section
/-!
PROOFS. The steps of a good state: the invariants of each engine by name, what each engine can do in one event as a
relation between its record, the next one and the messages sent, and that every event is such a turn; with the obligation
that every event completes (R11, R36, R171 to R227, R258, R263).
-/

-- The proofs one after the other: side by side, those of the whole text need more memory than the check allows.
set_option Elab.async false

namespace Sys2Proof.Machine

/-! ### The invariants by name -/

/-- `SwsInv` with a name for each part. -/
structure SwsFacts (p : Params) (e : Sws) : Prop where
  seq : e.currSeq.toNat = e.i % 256
  i_le : e.i ≤ e.n
  n_le : e.n ≤ 65536
  chunk_length : e.chunk.length = e.n
  chunk_fits : ∀ c ∈ e.chunk, chunkFits p.maxChunk c = true
  retry_le : withinLimit p.retryLimit e.retry
  awaiting : e.st = .awaitingAck → e.i < e.n
  done_pos : e.st = .done → 0 < e.n
  end_iff : 0 < e.n → (e.i = e.n ↔ e.st = .done)
  failed_iff : e.st = .failed ↔ e.err ≠ .none

theorem swsInv_iff {p : Params} {e : Sws} : SwsInv p e ↔ SwsFacts p e :=
  ⟨fun ⟨h1, h2, h3, h4, h5, h6, h7, h8, h9, h10⟩ => ⟨h1, h2, h3, h4, h5, h6, h7, h8, h9, h10⟩,
   fun h => ⟨h.seq, h.i_le, h.n_le, h.chunk_length, h.chunk_fits, h.retry_le, h.awaiting, h.done_pos, h.end_iff,
    h.failed_iff⟩⟩

/-- `SwrInv` with a name for each part. -/
structure SwrFacts (e : Swr) : Prop where
  rb_wf : EntryArray.wf e.rb
  rb_lt : ∀ x ∈ e.rb, x.1 < 65536
  done_iff : e.st = .done ↔ e.lastIdx ≠ none
  failed_err : e.st = .failed → e.err = .transportFailure
  idle_err : e.st = .idle → e.err = .none
  receiving_err : e.st = .receiving → e.err = .none
  stopped_err : e.st = .stopped → e.err = .none
  done_err : e.st = .done → e.err = .none ∨ e.err = .incompleteReassembly
  complete : (e.lastIdx.all fun l => decide (e.err = .none) == entriesPresent e.rb (l.toNat + 1)) = true

theorem swrInv_iff {e : Swr} : SwrInv e ↔ SwrFacts e :=
  ⟨fun ⟨h1, h2, h3, h4, h5, h6, h7, h8, h9⟩ => ⟨h1, h2, h3, h4, h5, h6, h7, h8, h9⟩,
   fun h => ⟨h.rb_wf, h.rb_lt, h.done_iff, h.failed_err, h.idle_err, h.receiving_err, h.stopped_err, h.done_err,
    h.complete⟩⟩

/-- `SrrInv` with a name for each part. -/
structure SrrFacts (e : Srr) : Prop where
  n_le : e.n ≤ 65536
  w_le : e.w ≤ 2 ^ 31 - 1
  flags_wf : BitArray.wf e.flags
  nak_wf : BitArray.wf e.nakSent
  rb_wf : EntryArray.wf e.rb
  count : e.rcount = e.flags.length
  entries : e.rb.map Prod.fst = e.flags
  flags_lt : ∀ k ∈ e.flags, k < e.n
  nak_lt : ∀ k ∈ e.nakSent, k < e.n
  awaitHs : e.st = .awaitHs → e = { Srr.reset with st := .awaitHs }
  receiving : e.st = .receiving → e.rcount < e.n
  done : e.st = .done → e.rcount = e.n
  failed_iff : e.st = .failed ↔ e.err ≠ .none

theorem srrInv_iff {e : Srr} : SrrInv e ↔ SrrFacts e :=
  ⟨fun ⟨h1, h2, h3, h4, h5, h6, h7, h8, h9, h10, h11, h12, h13⟩ =>
    ⟨h1, h2, h3, h4, h5, h6, h7, h8, h9, h10, h11, h12, h13⟩,
   fun h => ⟨h.n_le, h.w_le, h.flags_wf, h.nak_wf, h.rb_wf, h.count, h.entries, h.flags_lt, h.nak_lt, h.awaitHs,
    h.receiving, h.done, h.failed_iff⟩⟩

theorem SrrFacts.counted {e : Srr} (h : SrrFacts e) : Counted e := ⟨h.flags_wf, h.count, h.entries, h.flags_lt⟩

/-- The invariants of R36 but for the parameters', which no step needs (R7). -/
structure Good (s : State) : Prop where
  role : RoleInv s
  sws : SwsFacts s.par s.sws
  swr : SwrFacts s.swr
  srs : SrsFacts s.par s.srs
  srr : SrrFacts s.srr

theorem inv_iff {s : State} : Inv s ↔ ParInv s.par ∧ Good s :=
  ⟨fun ⟨hp, hrole, h1, h2, h3, h4⟩ =>
    ⟨hp, hrole, swsInv_iff.1 h1, swrInv_iff.1 h2, srsInv_iff.1 h3, srrInv_iff.1 h4⟩,
   fun ⟨hp, h⟩ => ⟨hp, h.role, swsInv_iff.2 h.sws, swrInv_iff.2 h.swr, srsInv_iff.2 h.srs, srrInv_iff.2 h.srr⟩⟩

/-! ### What an engine can do in one event -/

/-- What `SWS` can do in `AwaitingAck` (R173 to R175, R269, R270). -/
inductive SwsTurn (p : Params) (e : Sws) : Sws → List Message → Prop
  | done (hlast : e.i + 1 = e.n) :
      SwsTurn p e { e with st := .done, i := e.i + 1, currSeq := e.currSeq + 1#8, retry := 0 } []
  | next (c : Bytes) (hnot : e.i + 1 ≠ e.n) (hc : e.chunk[e.i + 1]? = some c) :
      SwsTurn p e { e with i := e.i + 1, currSeq := e.currSeq + 1#8, retry := 0 } [dataMessage e.n (e.i + 1) c]
  | resent (c : Bytes) (hleft : ∀ k ∈ p.retryLimit, e.retry < k) (hc : e.chunk[e.i]? = some c) :
      SwsTurn p e { e with retry := e.retry + 1 } [dataMessage e.n e.i c]
  | failed (err : Err) (herr : err ≠ .none) : SwsTurn p e { e with st := .failed, err := err } []
  | stopped : SwsTurn p e { e with st := .stopped } []

/-- What `SWR` takes in before it ends: nothing, or one valid frame (R182, R183). -/
inductive SwrTaken (r : Swr) : Swr → List Message → Prop
  | alone : SwrTaken r r []
  | accepted (idx : U16) (c : Bytes) :
      SwrTaken r { r with rxStat := .ok, rb := storedRb r.rb idx.toNat c } [.ctrl Config.ackKind (swrAckNum idx)]

/-- What `SWR` can do in `Receiving` (R182 to R188, R269, R270). -/
inductive SwrTurn (r : Swr) : Swr → List Message → Prop
  | rejected (idx : U16) (status : RxStat) : SwrTurn r { r with rxStat := status } [.ctrl Config.nakKind idx]
  | taken {r' : Swr} {out : List Message} (h : SwrTaken r r' out) : SwrTurn r r' out
  | handed {r' : Swr} {out : List Message} (idx : U16) (h : SwrTaken r r' out) (hfull : full r'.rb (idx.toNat + 1)) :
      SwrTurn r { r' with lastIdx := some idx, st := .done } (out ++ [.sink (joined r'.rb (idx.toNat + 1))])
  | gap {r' : Swr} {out : List Message} (idx : U16) (h : SwrTaken r r' out) (hgap : ¬ full r'.rb (idx.toNat + 1)) :
      SwrTurn r { r' with lastIdx := some idx, st := .done, err := .incompleteReassembly } out
  | failed : SwrTurn r { r with st := .failed, err := .transportFailure } []
  | stopped : SwrTurn r { r with st := .stopped } []

/-- What `SRS` can do in a state that runs (R202 to R206, R269, R270). -/
inductive SrsTurn (p : Params) (e : Srs) : Srs → List Message → Prop
  | opened (hst : e.st = .awaitHsAck) : SrsTurn p e e.opened (sent e.n e.chunk (List.range (min e.n e.w)))
  | acked (num : U16) (hst : e.st = .awaitReply) : SrsTurn p e (e.afterAck num) (e.ackSends num)
  | resent (ks : List Nat) (hst : e.st = .awaitReply) (hks : ∀ k ∈ ks, k < e.nextSeq)
      (hleft : ∀ k ∈ p.retryLimit, e.retry < k) :
      SrsTurn p e { e with retry := e.retry + 1 } (sent e.n e.chunk ks)
  | failed (err : Err) (hrun : e.st.running = true) (herr : err ≠ .none) :
      SrsTurn p e { e with st := .failed, err := err } []
  | stopped (hrun : e.st.running = true) : SrsTurn p e { e with st := .stopped } []

/-- The window is as it was, and the sender waits on for replies or its session has failed or been stopped. -/
structure Srs.Steady (e e' : Srs) : Prop where
  nextSeq : e'.nextSeq = e.nextSeq
  outst : e'.outst = e.outst
  st : (e.st = .awaitReply ∧ e'.st = .awaitReply) ∨ e'.st = .failed ∨ e'.st = .stopped

/-- The receiver's registers after a first delivery (R219, R222). -/
def Srr.afterFirst (i : Nat) (last : Bool) (c : Bytes) (r : Srr) : Srr :=
  { marked i c r with
    st := if r.rcount + 1 = r.n then .done else .receiving, lastSeen := r.lastSeen || last, rxStat := .ok }

/-- What a first delivery sends: its `ACK`, and the hand-off when no packet is missing (R219, R222). -/
def Srr.firstSends (idx : U16) (c : Bytes) (r : Srr) : List Message :=
  .ctrl 0x06 idx :: if r.rcount + 1 = r.n then [.sink (joined (marked idx.toNat c r).rb r.n)] else []

/-- What `SRR` can do in a state that runs (R217 to R227, R269, R270). -/
inductive SrrTurn (r : Srr) : Srr → List Message → Prop
  | opened (n w : I32) (hst : r.st = .awaitHs) (hlegal : (legalN n && legalW w) = true) :
      SrrTurn r (r.opened n w) [.ctrl 0x06 0]
  | oor (hst : r.st = .receiving) : SrrTurn r { r with oor := true, rxStat := .outOfRange } []
  | first (idx : U16) (last : Bool) (c : Bytes) (hst : r.st = .receiving) (hidx : idx.toNat < r.n)
      (hfirst : readBit r.flags idx.toNat = false) :
      SrrTurn r (r.afterFirst idx.toNat last c) (r.firstSends idx c)
  | dup (idx : U16) (last : Bool) (hst : r.st = .receiving) :
      SrrTurn r { r with lastSeen := r.lastSeen || last, rxStat := .ok } [.ctrl 0x06 idx]
  | bad (idx : U16) (status : RxStat) (hst : r.st = .receiving) (hidx : idx.toNat < r.n) :
      SrrTurn r { r with rxStat := status, nakSent := nakMarked r.nakSent idx.toNat }
        (if readBit r.nakSent idx.toNat then [] else [.ctrl 0x21 idx])
  | failed (err : Err) (hrun : r.st.running = true) (herr : err ≠ .none) :
      SrrTurn r { r with st := .failed, err := err } []
  | stopped (hrun : r.st.running = true) : SrrTurn r { r with st := .stopped } []

/-- The engine `MODE` names does something, and sends `out`; everything else stays (R11). -/
inductive Turn (s : State) (out : List Message) : State → Prop
  | sws {e : Sws} (hmode : s.mode = .swTx) (hst : s.sws.st = .awaitingAck) (h : SwsTurn s.par s.sws e out) :
      Turn s out { s with sws := e, tx := s.tx ++ out }
  | swr {e : Swr} (hmode : s.mode = .swRx) (hst : s.swr.st = .receiving) (h : SwrTurn s.swr e out) :
      Turn s out { s with swr := e, tx := s.tx ++ out }
  | srs {e : Srs} (hmode : s.mode = .srTx) (h : SrsTurn s.par s.srs e out) :
      Turn s out { s with srs := e, tx := s.tx ++ out }
  | srr {e : Srr} (hmode : s.mode = .srRx) (h : SrrTurn s.srr e out) :
      Turn s out { s with srr := e, tx := s.tx ++ out }

/-- The start a block without a role accepts, and what it sends (R171, R181, R201, R216, R249, R271). -/
inductive Started (s : State) : List Message → State → Prop
  | sws (n : I32) (c : Bytes) (chunks : List Bytes) (hn : legalN n = true)
      (hfit : chunksFit s.par.maxChunk n chunks = true) (hc : chunks[0]? = some c) :
      Started s [dataMessage n.toInt.toNat 0 c]
        { s with mode := .swTx, sws := Sws.started n chunks, tx := s.tx ++ [dataMessage n.toInt.toNat 0 c] }
  | swsMalformed : Started s []
      { s with mode := .swTx, sws := { s.sws with st := .failed, err := .malformedHandshake } }
  | swr : Started s []
      { s with mode := .swRx, swr := { st := .receiving, lastIdx := none, rxStat := .ok, err := .none, rb := [] } }
  | srs (n w : I32) (chunks : List Bytes) (hlegal : (legalN n && legalW w) = true)
      (hfit : chunksFit s.par.maxChunk n chunks = true) :
      Started s [.hs n w] { s with mode := .srTx, srs := Srs.started n w chunks, tx := s.tx ++ [.hs n w] }
  | srsMalformed : Started s []
      { s with mode := .srTx, srs := { s.srs with st := .failed, err := .malformedHandshake } }
  | srr : Started s [] { s with mode := .srRx, srr := { Srr.reset with st := .awaitHs } }

/-- What an input event or channel message does to a good state, and what it sends. -/
inductive EventTurn (i : Instr) (s : State) : List Message → State → Prop
  | result (v : Ret) : EventTurn i s [] (s.setRet v)
  | ignored : EventTurn i s [] s
  | reset (h : i = .reset) : EventTurn i s [] (resetOp s)
  | started {out : List Message} {t : State} (hmode : s.mode = .none) (h : Started s out t) : EventTurn i s out t
  | turned {out : List Message} {t : State} (h : Turn s out t) : EventTurn i s out t

theorem EventTurn.tx {i : Instr} {s t : State} {out : List Message} (h : EventTurn i s out t) :
    t.tx = s.tx ++ out := by
  cases h with
  | result v => exact (List.append_nil _).symm
  | ignored => exact (List.append_nil _).symm
  | reset h => exact (List.append_nil _).symm
  | started hmode h =>
    cases h with
    | sws => rfl
    | srs => rfl
    | swsMalformed => exact (List.append_nil _).symm
    | swr => exact (List.append_nil _).symm
    | srsMalformed => exact (List.append_nil _).symm
    | srr => exact (List.append_nil _).symm
  | turned h => cases h <;> rfl

/-! ### Every rule is a turn -/

theorem mode_of_running {s : State} (hrole : RoleInv s) {x : Engine} (hrun : running x s = true) :
    s.mode = engineMode x := mode_of_activeEngine (active_of_running hrole hrun)

/-- A next state with nothing sent, in the form of a turn. -/
theorem with_tx_nil (s : State) : { s with tx := s.tx ++ [] } = s := by rw [List.append_nil]

theorem swsAck_turn {s : State} (h : SwsFacts s.par s.sws) (hst : s.sws.st = .awaitingAck) :
    ∃ e out, swsAck s = .ok { s with sws := e, tx := s.tx ++ out } ∧ SwsTurn s.par s.sws e out := by
  by_cases hlast : s.sws.i + 1 = s.sws.n
  · refine ⟨_, [], ?_, .done hlast⟩
    rw [swsAck_of_last hst hlast, swsAdvance_eq, List.append_nil]
    rfl
  · have hi := h.awaiting hst
    have hlen : s.sws.i + 1 < s.sws.chunk.length := by
      rw [h.chunk_length]
      omega
    have hc := List.getElem?_eq_getElem hlen
    refine ⟨_, _, ?_, .next _ hlast hc⟩
    rw [swsAck_of_not_last hst hlast hc, swsAdvance_eq]
    rfl

theorem swsResend_turn {s : State} (h : SwsFacts s.par s.sws) (hst : s.sws.st = .awaitingAck) :
    ∃ e out, swsResend s = .ok { s with sws := e, tx := s.tx ++ out } ∧ SwsTurn s.par s.sws e out := by
  cases hspent : retrySpent .sws s with
  | true =>
    refine ⟨_, [], ?_, .failed .retryExhausted nofun⟩
    rw [swsResend_of_spent hst (retrySpent_eq_true_iff.1 hspent), List.append_nil]
  | false =>
    have hleft : budgetLeft s s.sws.retry := retrySpent_eq_false_iff.1 hspent
    have hlen : s.sws.i < s.sws.chunk.length := by
      rw [h.chunk_length]
      exact h.awaiting hst
    have hc := List.getElem?_eq_getElem hlen
    exact ⟨_, _, swsResend_of_left hst hleft hc, .resent _ hleft hc⟩

/-- The end of a session, from what was taken in (R187, R188). -/
theorem swrLast_turn {r : Swr} {s : State} {out : List Message} (h : SwrTaken r s.swr out) (idx : U16) :
    ∃ e more, swrLast idx s = { s with swr := e, tx := s.tx ++ more } ∧ SwrTurn r e (out ++ more) := by
  by_cases hfull : full s.swr.rb (idx.toNat + 1)
  · exact ⟨_, _, swrLast_of_full hfull, .handed idx h hfull⟩
  · have hturn := SwrTurn.gap idx h hfull
    rw [← List.append_nil out] at hturn
    refine ⟨_, [], ?_, hturn⟩
    rw [swrLast_of_not_full hfull, List.append_nil]

theorem swrAccept_turn (idx : U16) (last : Bool) (c : Bytes) (s : State) :
    ∃ e out, swrAccept idx last (s.setSwr (s.swr.withRb (storedRb s.swr.rb idx.toNat c))) =
      { s with swr := e, tx := s.tx ++ out } ∧ SwrTurn s.swr e out := by
  have htaken := SwrTaken.accepted (r := s.swr) idx c
  cases last with
  | false => exact ⟨_, _, swrAccept_of_not_last idx _ s, .taken htaken⟩
  | true =>
    by_cases hfull : full (storedRb s.swr.rb idx.toNat c) (idx.toNat + 1)
    · exact ⟨_, _, swrAccept_of_full hfull s, .handed idx htaken hfull⟩
    · exact ⟨_, _, swrAccept_of_not_full hfull s, .gap idx htaken hfull⟩

theorem decodeFrame_valid_status {maxChunk : Option Nat} {f : Bytes} (h : (decodeFrame maxChunk f).valid = true) :
    decodeFrame maxChunk f = { chunk := (decodeFrame maxChunk f).chunk, valid := true, status := .ok } := by
  revert h
  unfold decodeFrame
  simp only
  split_ifs <;> simp [structuralFailure]

theorem swrData_turn {s : State} (hst : s.swr.st = .receiving) (idx : U16) (last : Bool) (frame : Bytes) :
    ∃ e out, swrData idx last frame s = { s with swr := e, tx := s.tx ++ out } ∧ SwrTurn s.swr e out := by
  cases hvalid : (decodeFrame s.par.maxChunk frame).valid with
  | true =>
    rw [swrData_of_valid hst (decodeFrame_valid_status hvalid)]
    exact swrAccept_turn idx last _ s
  | false =>
    rw [swrData_of_bad (swrCase_of_invalid hst hvalid)]
    exact ⟨_, _, rfl, .rejected idx _⟩

theorem srsNak_turn {s : State} (h : SrsFacts s.par s.srs) (hst : s.srs.st = .awaitReply) (num : U16) :
    srsNak num s = .ok s ∨ ∃ e out, srsNak num s = .ok { s with srs := e, tx := s.tx ++ out } ∧
      SrsTurn s.par s.srs e out ∧ s.srs.Steady e := by
  by_cases hnum : num.toNat < s.srs.nextSeq
  · right
    cases hspent : retrySpent .srs s with
    | true =>
      refine ⟨_, [], ?_, .failed .retryExhausted (by rw [hst]; rfl) nofun, rfl, rfl, .inr (.inl rfl)⟩
      rw [srsNak_of_spent hst hnum (retrySpent_eq_true_iff.1 hspent), List.append_nil]
    | false =>
      have hleft : budgetLeft s s.srs.retry := retrySpent_eq_false_iff.1 hspent
      exact ⟨_, _, srsNak_of_left hst hnum hleft (h.chunk_length ▸ h.next_le_n),
        .resent _ hst (by simpa using hnum) hleft, rfl, rfl, .inl ⟨hst, hst⟩⟩
  · exact .inl (srsNak_of_not_sent hst (Nat.le_of_not_lt hnum))

theorem srsTimeout_turn {s : State} (h : SrsFacts s.par s.srs) (hst : s.srs.st = .awaitReply) :
    ∃ e out, srsTimeout s = .ok { s with srs := e, tx := s.tx ++ out } ∧ SrsTurn s.par s.srs e out ∧
      s.srs.Steady e := by
  cases hspent : retrySpent .srs s with
  | true =>
    refine ⟨_, [], ?_, .failed .retryExhausted (by rw [hst]; rfl) nofun, rfl, rfl, .inr (.inl rfl)⟩
    rw [srsTimeout_of_spent hst (retrySpent_eq_true_iff.1 hspent), List.append_nil]
  | false =>
    have hleft : budgetLeft s s.srs.retry := retrySpent_eq_false_iff.1 hspent
    refine ⟨_, _, srsTimeout_of_left hst hleft (h.chunk_length ▸ h.next_le_n), .resent _ hst (fun k hk => ?_) hleft,
      rfl, rfl, .inl ⟨hst, hst⟩⟩
    have hbounds := (List.mem_filter.1 hk).2
    rw [Bool.and_eq_true, decide_eq_true_iff, decide_eq_true_iff] at hbounds
    exact hbounds.2

theorem srrHs_turn {s : State} (hst : s.srr.st = .awaitHs) (n w : I32) :
    ∃ e out, srrHs n w s = { s with srr := e, tx := s.tx ++ out } ∧ SrrTurn s.srr e out := by
  cases hlegal : legalN n && legalW w with
  | true =>
    rw [srrHs_of_legal hst hlegal]
    exact ⟨_, _, srrHsLegal_eq n w s, .opened n w hst hlegal⟩
  | false =>
    refine ⟨_, [], ?_, .failed .malformedHandshake (by rw [hst]; rfl) nofun⟩
    rw [srrHs_of_illegal hst hlegal, List.append_nil]
    rfl

theorem srrData_turn {s : State} (h : SrrFacts s.srr) (hst : s.srr.st = .receiving) (idx : U16) (last : Bool)
    (frame : Bytes) :
    ∃ e out, srrData idx last frame s = { s with srr := e, tx := s.tx ++ out } ∧ SrrTurn s.srr e out := by
  by_cases hidx : idx.toNat < s.srr.n
  · cases hvalid : (decodeFrame s.par.maxChunk frame).valid with
    | true =>
      cases hflag : readBit s.srr.flags idx.toNat with
      | true =>
        rw [srrData_of_dup (srrCase_of_dup hst hidx hflag hvalid)]
        exact ⟨_, _, srrDup_eq idx last s, .dup idx last hst⟩
      | false =>
        rw [srrData_of_first (srrCase_of_first hst hidx hflag hvalid)]
        exact ⟨_, _, srrFirst_eq h.counted hst hidx hflag last _, .first idx last _ hst hidx hflag⟩
    | false =>
      rw [srrData_of_bad (srrCase_of_invalid hst hidx hvalid)]
      exact ⟨_, _, srrBad_eq idx _ s, .bad idx _ hst hidx⟩
  · refine ⟨_, [], ?_, .oor hst⟩
    rw [srrData_of_oor (srrCase_of_oor hst (Nat.le_of_not_lt hidx) frame), srrOor_eq, List.append_nil]

/-- In a good state every rule completes: it is ignored or it is a turn of the engine `MODE` names (R258, R263). -/
theorem runRule_turn {s : State} (hgood : Good s) (r : Rule) :
    runRule r s = .ok s ∨ ∃ out t, runRule r s = .ok t ∧ Turn s out t := by
  cases hrun : running (ruleEngine r) s with
  | false => exact .inl (runRule_of_not_running hrun)
  | true =>
    have hmode := mode_of_running hgood.role hrun
    cases r with
    | swsAck =>
      by_cases hst : s.sws.st = .awaitingAck
      · obtain ⟨e, out, heq, hturn⟩ := swsAck_turn hgood.sws hst
        exact .inr ⟨out, _, heq, .sws hmode hst hturn⟩
      · exact .inl (swsAck_of_not_awaiting hst)
    | swsResend =>
      by_cases hst : s.sws.st = .awaitingAck
      · obtain ⟨e, out, heq, hturn⟩ := swsResend_turn hgood.sws hst
        exact .inr ⟨out, _, heq, .sws hmode hst hturn⟩
      · exact .inl (swsResend_of_not_awaiting hst)
    | swrData idx last frame =>
      by_cases hst : s.swr.st = .receiving
      · obtain ⟨e, out, heq, hturn⟩ := swrData_turn hst idx last frame
        exact .inr ⟨out, _, congrArg Except.ok heq, .swr hmode hst hturn⟩
      · exact .inl (congrArg Except.ok (swrData_of_not_receiving hst idx last frame))
    | swrLast idx =>
      by_cases hst : s.swr.st = .receiving
      · obtain ⟨e, out, heq, hturn⟩ := swrLast_turn (SwrTaken.alone (r := s.swr)) idx
        exact .inr ⟨out, _, congrArg Except.ok ((if_pos hst).trans heq), .swr hmode hst hturn⟩
      · exact .inl (congrArg Except.ok (if_neg hst))
    | srsHsack =>
      by_cases hst : s.srs.st = .awaitHsAck
      · exact .inr ⟨_, _, srsHsack_of_await hgood.srs hst, .srs hmode (.opened hst)⟩
      · exact .inl (srsHsack_of_not_await hst)
    | srsAck num =>
      by_cases hst : s.srs.st = .awaitReply
      · exact .inr ⟨_, _, srsAck_of_await hgood.srs hst num, .srs hmode (.acked num hst)⟩
      · exact .inl (srsAck_of_not_await hst num)
    | srsNak num =>
      by_cases hst : s.srs.st = .awaitReply
      · rcases srsNak_turn hgood.srs hst num with heq | ⟨e, out, heq, hturn, -⟩
        · exact .inl heq
        · exact .inr ⟨out, _, heq, .srs hmode hturn⟩
      · exact .inl (srsNak_of_not_await hst num)
    | srsTimeout =>
      by_cases hst : s.srs.st = .awaitReply
      · obtain ⟨e, out, heq, hturn, -⟩ := srsTimeout_turn hgood.srs hst
        exact .inr ⟨out, _, heq, .srs hmode hturn⟩
      · exact .inl (srsTimeout_of_not_await hst)
    | srrHs n w =>
      by_cases hst : s.srr.st = .awaitHs
      · obtain ⟨e, out, heq, hturn⟩ := srrHs_turn hst n w
        exact .inr ⟨out, _, congrArg Except.ok heq, .srr hmode hturn⟩
      · exact .inl (congrArg Except.ok (srrHs_of_not_await hst n w))
    | srrData idx last frame =>
      by_cases hst : s.srr.st = .receiving
      · obtain ⟨e, out, heq, hturn⟩ := srrData_turn hgood.srr hst idx last frame
        exact .inr ⟨out, _, congrArg Except.ok heq, .srr hmode hturn⟩
      · exact .inl (congrArg Except.ok (srrData_of_not_receiving hst idx last frame))

theorem SwsSt.running_iff {x : SwsSt} : x.running = true ↔ x = .awaitingAck := by cases x <;> simp [SwsSt.running]

theorem SwrSt.running_iff {x : SwrSt} : x.running = true ↔ x = .receiving := by cases x <;> simp [SwrSt.running]

/-- STOP and TRANSPORT_FAIL at a running engine are turns of it (R269, R270). -/
theorem stop_and_fail_turn {s : State} (hrole : RoleInv s) {x : Engine} (hrun : running x s = true) :
    Turn s [] (stopEngine x s) ∧ Turn s [] (raiseError x .transportFailure s) := by
  have hmode := mode_of_running hrole hrun
  rw [← with_tx_nil (stopEngine x s), ← with_tx_nil (raiseError x .transportFailure s)]
  cases x with
  | sws => exact ⟨.sws hmode (SwsSt.running_iff.1 hrun) .stopped,
      .sws hmode (SwsSt.running_iff.1 hrun) (.failed _ nofun)⟩
  | swr => exact ⟨.swr hmode (SwrSt.running_iff.1 hrun) .stopped, .swr hmode (SwrSt.running_iff.1 hrun) .failed⟩
  | srs => exact ⟨.srs hmode (.stopped hrun), .srs hmode (.failed _ hrun nofun)⟩
  | srr => exact ⟨.srr hmode (.stopped hrun), .srr hmode (.failed _ hrun nofun)⟩

theorem stopOp_turn {s : State} (hrole : RoleInv s) :
    (stopOp s = s ∨ Turn s [] (stopOp s)) ∧ (transportFailOp s = s ∨ Turn s [] (transportFailOp s)) := by
  unfold stopOp transportFailOp
  split
  · exact ⟨.inl rfl, .inl rfl⟩
  · split_ifs with hrun
    · exact ⟨.inr (stop_and_fail_turn hrole hrun).1, .inr (stop_and_fail_turn hrole hrun).2⟩
    · exact ⟨.inl rfl, .inl rfl⟩

theorem chunksFit_iff {maxChunk : Option Nat} {n : I32} {chunks : List Bytes} : chunksFit maxChunk n chunks = true ↔
    chunks.length = n.toInt.toNat ∧ ∀ c ∈ chunks, chunkFits maxChunk c = true := by
  rw [chunksFit, Bool.and_eq_true, decide_eq_true_iff, List.all_eq_true]

/-- A legal start has a first chunk to send (R171). -/
theorem exists_first_chunk {maxChunk : Option Nat} {n : I32} {chunks : List Bytes} (hn : legalN n = true)
    (hfit : chunksFit maxChunk n chunks = true) : ∃ c, chunks[0]? = some c := by
  have hlow := (legalN_iff.1 hn).1
  have hlen := (chunksFit_iff.1 hfit).1
  exact ⟨_, List.getElem?_eq_getElem (by omega)⟩

/-- Without a role a well-formed start is accepted (R249). -/
theorem startOp_started {s : State} {r : StartReq} (hmode : s.mode = .none)
    (hwf : r.wellFormed s.par.maxChunk = true) : ∃ out t, startOp r s = .ok t ∧ Started s out t := by
  cases r with
  | swTx n chunks =>
    cases hn : legalN n with
    | true =>
      obtain ⟨c, hc⟩ := exists_first_chunk hn hwf
      exact ⟨_, _, swsStart_of_legal hmode hn hc, .sws n _ chunks hn hwf hc⟩
    | false => exact ⟨_, _, swsStart_of_illegal hmode hn chunks, .swsMalformed⟩
  | swRx => exact ⟨_, _, congrArg Except.ok (swrStart_of_none hmode), .swr⟩
  | srTx n w chunks =>
    cases hlegal : legalN n && legalW w with
    | true => exact ⟨_, _, congrArg Except.ok (srsStart_of_legal hmode hlegal chunks), .srs n w chunks hlegal hwf⟩
    | false => exact ⟨_, _, congrArg Except.ok (srsStart_of_illegal hmode hlegal chunks), .srsMalformed⟩
  | srRx => exact ⟨_, _, congrArg Except.ok (srrStart_of_none hmode), .srr⟩

theorem wellFormed_of_startReq {i : Instr} {r : StartReq} {maxChunk : Option Nat} (h : startReqOf i = some r)
    (hwf : i.wellFormed maxChunk = true) : r.wellFormed maxChunk = true := by
  unfold startReqOf at h
  split at h <;> cases h <;> exact hwf

/-- Every event and channel message completes in a good state, as one of the turns (R11, R258, R263). -/
theorem exec_turn {i : Instr} {s : State} (hgood : Good s) (hwf : i.wellFormed s.par.maxChunk = true)
    (hev : isEventRow i = true) : ∃ out t, exec i s = .next t ∧ EventTurn i s out t := by
  obtain ⟨hstop, hfail⟩ := stopOp_turn hgood.role
  cases eventForm hev s with
  | bareFrame body etx csum hi =>
    subst hi
    exact ⟨[], _, rfl, .result _⟩
  | reset hi =>
    subst hi
    exact ⟨[], _, rfl, .reset rfl⟩
  | start r hr =>
    rw [exec_of_startReq hr]
    by_cases hmode : s.mode = .none
    · obtain ⟨out, t, heq, hstarted⟩ := startOp_started hmode (wellFormed_of_startReq hr hwf)
      exact ⟨out, t, congrArg Res.outcome heq, .started hmode hstarted⟩
    · exact ⟨[], s, congrArg Res.outcome (startOp_of_role hmode r), .ignored⟩
  | stop hi =>
    subst hi
    rw [exec_stop]
    rcases hstop with heq | hturn
    · exact ⟨[], s, congrArg Host.Outcome.next heq, .ignored⟩
    · exact ⟨[], _, rfl, .turned hturn⟩
  | transportFail hi =>
    subst hi
    rw [exec_transportFail]
    rcases hfail with heq | hturn
    · exact ⟨[], s, congrArg Host.Outcome.next heq, .ignored⟩
    · exact ⟨[], _, rfl, .turned hturn⟩
  | ignored hs => exact ⟨[], s, hs, .ignored⟩
  | rule r hr =>
    rw [hr]
    rcases runRule_turn hgood r with heq | ⟨out, t, heq, hturn⟩
    · exact ⟨[], s, congrArg Res.outcome heq, .ignored⟩
    · exact ⟨out, t, congrArg Res.outcome heq, .turned hturn⟩

theorem wellFormed_of_decode {maxChunk : Option Nat} {it : Item} {i : Instr} (h : decode maxChunk it = .ok i) :
    i.wellFormed maxChunk = true := (decodeThenEncode maxChunk it i h).1

theorem Good.setInput {s : State} (h : Good s) (l : List Item) : Good (s.setInput l) :=
  ⟨h.role, h.sws, h.swr, h.srs, h.srr⟩

/-- The turn a step of a good state is, from the state with the item taken away (R11). -/
theorem step_turn {s : State} {it : Item} {rest : List Item} {i : Instr} (hgood : Good s)
    (hin : s.input = it :: rest) (hdec : decode s.par.maxChunk it = .ok i) (hev : isEventRow i = true) :
    ∃ out t, step s = .next t ∧ EventTurn i (s.setInput rest) out t := by
  rw [step_of_decode_ok hin hdec]
  exact exec_turn (hgood.setInput rest) (wellFormed_of_decode hdec) hev

/-- The same of a step that is known to give `t`. -/
theorem turn_of_step {s t : State} {it : Item} {rest : List Item} {i : Instr} (hgood : Good s)
    (hin : s.input = it :: rest) (hdec : decode s.par.maxChunk it = .ok i) (hev : isEventRow i = true)
    (hstep : step s = .next t) : ∃ out, EventTurn i (s.setInput rest) out t := by
  obtain ⟨out, t', hstep', hturn⟩ := step_turn hgood hin hdec hev
  obtain rfl := Host.Outcome.next.inj (hstep'.symm.trans hstep)
  exact ⟨out, hturn⟩

/-- Settles O8: by `step_turn`. -/
theorem eventStepAlwaysCompletes : Obligations.EventStepAlwaysCompletes := by
  intro s it rest i hinv hin hdec hev
  obtain ⟨-, t, hstep, -⟩ := step_turn (inv_iff.1 hinv).2 hin hdec hev
  exact ⟨t, hstep⟩

end Sys2Proof.Machine
end

section
/-!
PROOFS. What the turns of a good state keep: the invariants of every engine and the stored entries, the window's order, the
transitions of R23, and what is emitted (R23, R36, R71, R73, R158, R247).
-/

-- The proofs one after the other: side by side, those of the whole text need more memory than the check allows.
set_option Elab.async false

namespace Sys2Proof.Machine

/-! ### The arrays -/

theorem mem_of_mem_storeIfAbsent {rb : EntryArray} {i : Nat} {c : Bytes} {x : Nat × Bytes}
    (h : x ∈ storeIfAbsent rb i c) : x = (i, c) ∨ x ∈ rb := by
  induction rb with
  | nil => exact .inl (List.mem_singleton.1 h)
  | cons y r ih =>
    obtain ⟨j, d⟩ := y
    rw [storeIfAbsent] at h
    split_ifs at h
    · exact List.mem_cons.1 h
    · exact .inr h
    · rcases List.mem_cons.1 h with rfl | hr
      · exact .inr List.mem_cons_self
      · exact (ih hr).imp_right (List.mem_cons_of_mem _)

theorem mem_of_mem_storedRb {rb : EntryArray} {i : Nat} {c : Bytes} {x : Nat × Bytes} (h : x ∈ storedRb rb i c) :
    x = (i, c) ∨ x ∈ rb := by
  unfold storedRb at h
  split_ifs at h
  · exact mem_of_mem_storeIfAbsent h
  · exact .inr h

theorem storedRb_wf {rb : EntryArray} (h : EntryArray.wf rb) (i : Nat) (c : Bytes) : EntryArray.wf (storedRb rb i c) := by
  unfold storedRb
  split
  · exact storeIfAbsent_wf h i c
  · exact h

/-- An entry that is there stays (R64). -/
theorem readEntry_storedRb_of_some {rb : EntryArray} (hwf : EntryArray.wf rb) {k : Nat} {d : Bytes}
    (h : readEntry rb k = some d) (i : Nat) (c : Bytes) : readEntry (storedRb rb i c) k = some d := by
  rw [readEntry_storedRb hwf]
  split
  case isTrue hk =>
    subst hk
    rw [h, Option.getD_some]
  case isFalse => exact h

theorem nakMarked_wf {l : BitArray} (h : BitArray.wf l) (i : Nat) : BitArray.wf (nakMarked l i) := by
  unfold nakMarked
  split
  · exact h
  · exact setBit_wf h i

theorem ackedOutst_wf {e : Srs} (h : BitArray.wf e.outst) (num : U16) : BitArray.wf (ackedOutst num e) := by
  unfold ackedOutst
  split
  · exact clearBit_wf h _
  · exact h

theorem withinLimit_succ {limit : Option Nat} {k : Nat} (h : ∀ m ∈ limit, k < m) : withinLimit limit (k + 1) := by
  cases limit with
  | none => rfl
  | some m => exact decide_eq_true (h m rfl)

theorem toNat_toInt_le (w : I32) : w.toInt.toNat ≤ 2 ^ 31 - 1 := by
  have := w.toInt_lt
  omega

/-! ### The Stop-and-Wait sender -/

/-- An end of the session other than by the last acknowledgement. -/
theorem SwsFacts.ended {p : Params} {e : Sws} (h : SwsFacts p e) (hst : e.st = .awaitingAck) {st : SwsSt} {err : Err}
    (hawait : st ≠ .awaitingAck) (hdone : st ≠ .done) (herr : st = .failed ↔ err ≠ .none) :
    SwsFacts p { e with st := st, err := err } :=
  { h with
    awaiting := fun heq => absurd heq hawait
    done_pos := fun heq => absurd heq hdone
    end_iff := fun _ => ⟨fun heq => absurd heq (Nat.ne_of_lt (h.awaiting hst)), fun heq => absurd heq hdone⟩
    failed_iff := herr }

theorem SwsFacts.err_of_awaiting {p : Params} {e : Sws} (h : SwsFacts p e) (hst : e.st = .awaitingAck) :
    e.err = .none := by
  by_contra herr
  have := h.failed_iff.2 herr
  simp [hst] at this

theorem SwsFacts.seq_succ {p : Params} {e : Sws} (h : SwsFacts p e) : (e.currSeq + 1#8).toNat = (e.i + 1) % 256 := by
  rw [BitVec.toNat_add, h.seq]
  simp

/-- Every turn of the sender keeps its invariants, its chunks and their number, and it is not `Idle` after it. -/
theorem SwsTurn.facts {p : Params} {e e' : Sws} {out : List Message} (t : SwsTurn p e e' out) (h : SwsFacts p e)
    (hst : e.st = .awaitingAck) : SwsFacts p e' ∧ e'.st ≠ .idle ∧ e'.n = e.n ∧ e'.chunk = e.chunk := by
  have hi := h.awaiting hst
  have herr := h.err_of_awaiting hst
  have hzero := withinLimit_zero p.retryLimit
  cases t with
  | done hlast =>
    refine ⟨{ h with
      seq := h.seq_succ, i_le := hi, retry_le := hzero, awaiting := nofun
      done_pos := fun _ => Nat.lt_of_le_of_lt (Nat.zero_le _) hi
      end_iff := fun _ => iff_of_true hlast rfl
      failed_iff := iff_of_false nofun (by simp [herr]) }, nofun, rfl, rfl⟩
  | next c hnot hc =>
    have hnext : e.i + 1 < e.n := by omega
    refine ⟨{ h with
      seq := h.seq_succ, i_le := hi, retry_le := hzero, awaiting := fun _ => hnext
      end_iff := fun _ => iff_of_false hnot (by simp [hst]) }, by simp [hst], rfl, rfl⟩
  | resent c hleft hc => exact ⟨{ h with retry_le := withinLimit_succ hleft }, by simp [hst], rfl, rfl⟩
  | failed err herr => exact ⟨h.ended hst nofun nofun (iff_of_true rfl herr), nofun, rfl, rfl⟩
  | stopped => exact ⟨h.ended hst nofun nofun (iff_of_false nofun (by simp [herr])), nofun, rfl, rfl⟩

theorem SwsTurn.edge {p : Params} {e e' : Sws} {out : List Message} (t : SwsTurn p e e' out) (hst : e.st = .awaitingAck) :
    swsEdge e.st e'.st = true := by
  rw [hst]
  cases t with
  | next => simp [hst, swsEdge]
  | resent => simp [hst, swsEdge]
  | done => rfl
  | failed => rfl
  | stopped => rfl

/-! ### The Stop-and-Wait receiver -/

theorem SwrFacts.lastIdx_of_receiving {r : Swr} (h : SwrFacts r) (hst : r.st = .receiving) : r.lastIdx = none := by
  by_contra hlast
  have := h.done_iff.2 hlast
  simp [hst] at this

theorem SwrTaken.facts {r r' : Swr} {out : List Message} (t : SwrTaken r r' out) (h : SwrFacts r)
    (hst : r.st = .receiving) : SwrFacts r' ∧ r'.st = .receiving := by
  cases t with
  | alone => exact ⟨h, hst⟩
  | accepted idx c =>
    have hlast := h.lastIdx_of_receiving hst
    refine ⟨{ h with rb_wf := storedRb_wf h.rb_wf _ _, rb_lt := fun x hx => ?_, complete := by rw [hlast]; rfl }, hst⟩
    rcases mem_of_mem_storedRb hx with rfl | hold
    · exact idx.isLt
    · exact h.rb_lt x hold

/-- The end by a `last` frame: the error says whether the buffer is complete (R188). -/
theorem SwrFacts.finished {r : Swr} (h : SwrFacts r) (idx : U16) {err : Err}
    (herr : (err = .none ∧ full r.rb (idx.toNat + 1)) ∨ (err = .incompleteReassembly ∧ ¬ full r.rb (idx.toNat + 1))) :
    SwrFacts { r with lastIdx := some idx, st := .done, err := err } where
  rb_wf := h.rb_wf
  rb_lt := h.rb_lt
  done_iff := iff_of_true rfl nofun
  failed_err := nofun
  idle_err := nofun
  receiving_err := nofun
  stopped_err := nofun
  done_err := fun _ => herr.imp And.left And.left
  complete := by
    rw [← entriesPresent_iff_full] at herr
    rcases herr with ⟨rfl, hfull⟩ | ⟨rfl, hgap⟩
    · simpa using hfull
    · simpa using hgap

/-- An end by STOP or by the channel's failure. -/
theorem SwrFacts.cut {r : Swr} (h : SwrFacts r) (hst : r.st = .receiving) :
    SwrFacts { r with st := .stopped } ∧ SwrFacts { r with st := .failed, err := .transportFailure } := by
  have hlast := h.lastIdx_of_receiving hst
  have herr := h.receiving_err hst
  exact ⟨{ h with
      done_iff := iff_of_false nofun (by simp [hlast]), failed_err := nofun, idle_err := nofun, receiving_err := nofun
      stopped_err := fun _ => herr, done_err := nofun },
    { h with
      done_iff := iff_of_false nofun (by simp [hlast]), failed_err := fun _ => rfl, idle_err := nofun
      receiving_err := nofun, stopped_err := nofun, done_err := nofun, complete := by rw [hlast]; rfl }⟩

theorem SwrTurn.facts {r r' : Swr} {out : List Message} (t : SwrTurn r r' out) (h : SwrFacts r)
    (hst : r.st = .receiving) : SwrFacts r' ∧ r'.st ≠ .idle := by
  cases t with
  | rejected idx status => exact ⟨{ h with }, by simp [hst]⟩
  | taken ht =>
    obtain ⟨hfacts, hst'⟩ := ht.facts h hst
    exact ⟨hfacts, by simp [hst']⟩
  | @handed r' _ idx ht hfull =>
    obtain ⟨hfacts, hst'⟩ := ht.facts h hst
    have hdone := hfacts.finished idx (.inl ⟨hfacts.receiving_err hst', hfull⟩)
    exact ⟨hdone, nofun⟩
  | gap idx ht hgap => exact ⟨(ht.facts h hst).1.finished idx (.inr ⟨rfl, hgap⟩), nofun⟩
  | failed => exact ⟨(h.cut hst).2, nofun⟩
  | stopped => exact ⟨(h.cut hst).1, nofun⟩

theorem SwrTurn.edge {r r' : Swr} {out : List Message} (t : SwrTurn r r' out) (h : SwrFacts r) (hst : r.st = .receiving) :
    swrEdge r.st r'.st = true := by
  rw [hst]
  cases t with
  | rejected => simp [hst, swrEdge]
  | taken ht => simp [(ht.facts h hst).2, swrEdge]
  | handed => rfl
  | gap => rfl
  | failed => rfl
  | stopped => rfl

theorem SwrTaken.entries {r r' : Swr} {out : List Message} (t : SwrTaken r r' out) (h : SwrFacts r) {k : Nat} {c : Bytes}
    (hk : readEntry r.rb k = some c) : readEntry r'.rb k = some c := by
  cases t with
  | alone => exact hk
  | accepted idx d => exact readEntry_storedRb_of_some h.rb_wf hk _ _

/-- No present entry changes (R64). -/
theorem SwrTurn.entries {r r' : Swr} {out : List Message} (t : SwrTurn r r' out) (h : SwrFacts r) {k : Nat} {c : Bytes}
    (hk : readEntry r.rb k = some c) : readEntry r'.rb k = some c := by
  cases t with
  | rejected => exact hk
  | taken ht => exact ht.entries h hk
  | handed _ ht => exact ht.entries h hk
  | gap _ ht => exact ht.entries h hk
  | failed => exact hk
  | stopped => exact hk

/-! ### The Selective-Repeat sender -/

theorem SrsFacts.err_of_running {p : Params} {e : Srs} (h : SrsFacts p e) (hst : e.st ≠ .failed) : e.err = .none := by
  by_contra herr
  exact hst (h.failed_iff.2 herr)

theorem SrsSt.ne_failed_of_running {x : SrsSt} (h : x.running = true) : x ≠ .failed := by
  rintro rfl
  cases h

theorem SrsFacts.opened {p : Params} {e : Srs} (h : SrsFacts p e) (hst : e.st = .awaitHsAck) : SrsFacts p e.opened := by
  obtain ⟨hn, hw, -⟩ := h.awaitHs hst
  obtain ⟨-, hbase, -⟩ := h.empty_window hst
  have hbit (k : Nat) : k ∈ e.opened.outst ↔ k < min e.n e.w := by
    rw [← readBit_eq_true, Srs.opened, readBit_addRange]
    simp [readBit]
  have herr := h.err_of_running (by simp [hst])
  exact { h with
    base_le := by simp [Srs.opened, hbase]
    next_le_n := Nat.min_le_left _ _
    next_le_window := by simp [Srs.opened, hbase]
    outst_wf := addRange_wf List.Pairwise.nil _ _
    outst_mem := fun k hk => ⟨by simp [Srs.opened, hbase], (hbit k).1 hk⟩
    base_outst := .inr ((hbit _).2 (by simp [Srs.opened, hbase, hn, hw]))
    awaitHs := nofun
    awaitReply := fun _ => ⟨hw, by simp [Srs.opened, hbase], by simpa [Srs.opened, hbase] using hn⟩
    done := nofun
    failed_iff := iff_of_false nofun (by simp [Srs.opened, herr]) }

/-- What the window holds after an acknowledgement: what was left of it, and what it has come to hold (R203). -/
theorem Srs.mem_afterAck_outst {e : Srs} {num : U16} {k : Nat} : k ∈ (e.afterAck num).outst ↔
    readBit (ackedOutst num e) k = true ∨ (e.nextSeq ≤ k ∧ k < (e.afterAck num).nextSeq) := by
  rw [← readBit_eq_true, Srs.afterAck, readBit_addRange, Bool.or_eq_true, Bool.and_eq_true, decide_eq_true_iff,
    decide_eq_true_iff]
  refine or_congr_right ?_
  dsimp only
  omega

theorem SrsFacts.afterAck {p : Params} {e : Srs} (h : SrsFacts p e) (hst : e.st = .awaitReply) (num : U16) :
    SrsFacts p (e.afterAck num) ∧ e.winBase ≤ (e.afterAck num).winBase ∧ e.nextSeq ≤ (e.afterAck num).nextSeq := by
  obtain ⟨hw, hnext, -⟩ := h.awaitReply hst
  obtain ⟨hlow, hhigh, -, hstop⟩ := h.slidBase_spec num
  have hn := h.next_le_n
  have herr := h.err_of_running (by simp [hst])
  have hbase : (e.afterAck num).winBase = slidBase num e := rfl
  have hnext' : (e.afterAck num).nextSeq = min e.n (slidBase num e + e.w) := rfl
  have hst' : (e.afterAck num).st = if slidBase num e = e.n then .done else .awaitReply := rfl
  have hgrow : e.nextSeq ≤ (e.afterAck num).nextSeq := by omega
  refine ⟨{ h with
    base_le := by omega
    next_le_n := by rw [hnext']; exact Nat.min_le_left _ _
    next_le_window := by rw [hnext']; exact Nat.min_le_right _ _
    outst_wf := addRange_wf (ackedOutst_wf h.outst_wf num) _ _
    outst_mem := fun k hk => ?mem
    base_outst := ?base
    retry_le := ?retry
    awaitHs := fun heq => ?await
    awaitReply := fun heq => ?reply
    done := fun heq => ?done
    failed_iff := iff_of_false (by rw [hst']; split <;> nofun) (by simp [Srs.afterAck, Srs.slid, herr]) }, hlow, hgrow⟩
  case mem =>
    rcases Srs.mem_afterAck_outst.1 hk with hold | hnew
    · have := h.ackedOutst_bounds num hold
      omega
    · omega
  case base =>
    rw [Srs.mem_afterAck_outst]
    rcases hstop with heq | hbit
    · omega
    · exact .inr (.inl hbit)
  case retry =>
    change withinLimit p.retryLimit (if winAckHit e num then 0 else e.retry)
    split
    · exact withinLimit_zero _
    · exact h.retry_le
  case await =>
    rw [hst'] at heq
    split at heq <;> cases heq
  case reply =>
    rw [hst'] at heq
    split at heq
    · cases heq
    · exact ⟨hw, hnext', Nat.lt_of_le_of_ne (hhigh.trans hn) ‹_›⟩
  case done =>
    rw [hst'] at heq
    split at heq
    · assumption
    · cases heq

theorem SrsFacts.ended {p : Params} {e : Srs} (h : SrsFacts p e) {st : SrsSt} {err : Err} (hrun : st.running = false)
    (hdone : st ≠ .done) (herr : st = .failed ↔ err ≠ .none) : SrsFacts p { e with st := st, err := err } :=
  { h with
    awaitHs := fun heq => absurd hrun (by rw [show st = .awaitHsAck from heq]; nofun)
    awaitReply := fun heq => absurd hrun (by rw [show st = .awaitReply from heq]; nofun)
    done := fun heq => absurd heq hdone
    failed_iff := herr }

/-- Every turn of the sender keeps its invariants, its chunks, their number and the window's size; the window does not move
back (R158). -/
theorem SrsTurn.facts {p : Params} {e e' : Srs} {out : List Message} (t : SrsTurn p e e' out) (h : SrsFacts p e) :
    SrsFacts p e' ∧ e'.st ≠ .idle ∧ (e'.n = e.n ∧ e'.w = e.w ∧ e'.chunk = e.chunk) ∧
      e.winBase ≤ e'.winBase ∧ e.nextSeq ≤ e'.nextSeq := by
  cases t with
  | opened hst =>
    obtain ⟨hnext, -, -⟩ := h.empty_window hst
    exact ⟨h.opened hst, nofun, ⟨rfl, rfl, rfl⟩, le_rfl, by omega⟩
  | acked num hst =>
    obtain ⟨hfacts, hbase, hnext⟩ := h.afterAck hst num
    refine ⟨hfacts, ?_, ⟨rfl, rfl, rfl⟩, hbase, hnext⟩
    change (if slidBase num e = e.n then SrsSt.done else .awaitReply) ≠ .idle
    split <;> nofun
  | resent ks hst hks hleft =>
    exact ⟨{ h with retry_le := withinLimit_succ hleft }, by simp [hst], ⟨rfl, rfl, rfl⟩, le_rfl, le_rfl⟩
  | failed err hrun herr =>
    exact ⟨h.ended rfl nofun (iff_of_true rfl herr), nofun, ⟨rfl, rfl, rfl⟩, le_rfl, le_rfl⟩
  | stopped hrun =>
    have herr := h.err_of_running (SrsSt.ne_failed_of_running hrun)
    exact ⟨h.ended rfl nofun (iff_of_false nofun (by simp [herr])), nofun, ⟨rfl, rfl, rfl⟩, le_rfl, le_rfl⟩

theorem SrsTurn.edge {p : Params} {e e' : Srs} {out : List Message} (t : SrsTurn p e e' out) :
    srsEdge e.st e'.st = true := by
  cases t with
  | opened hst =>
    rw [hst]
    rfl
  | acked num hst =>
    rw [hst]
    change srsEdge .awaitReply (if slidBase num e = e.n then SrsSt.done else .awaitReply) = true
    split <;> rfl
  | resent => simp [srsEdge]
  | failed err hrun =>
    revert hrun
    cases e.st <;> simp [SrsSt.running, srsEdge]
  | stopped hrun =>
    revert hrun
    cases e.st <;> simp [SrsSt.running, srsEdge]

/-! ### The Selective-Repeat receiver -/

theorem SrrFacts.err_of_running {r : Srr} (h : SrrFacts r) (hst : r.st ≠ .failed) : r.err = .none := by
  by_contra herr
  exact hst (h.failed_iff.2 herr)

theorem SrrSt.ne_failed_of_running {x : SrrSt} (h : x.running = true) : x ≠ .failed := by
  rintro rfl
  cases h

theorem SrrFacts.opened {r : Srr} (h : SrrFacts r) (hst : r.st = .awaitHs) {n w : I32}
    (hlegal : (legalN n && legalW w) = true) : SrrFacts (r.opened n w) := by
  obtain ⟨⟨hlow, hhigh⟩, -⟩ := legalNW_iff.1 hlegal
  have herr := h.err_of_running (by simp [hst])
  exact {
    n_le := by
      change n.toInt.toNat ≤ 65536
      omega
    w_le := toNat_toInt_le w
    flags_wf := List.Pairwise.nil
    nak_wf := List.Pairwise.nil
    rb_wf := List.Pairwise.nil
    count := rfl
    entries := rfl
    flags_lt := nofun
    nak_lt := nofun
    awaitHs := nofun
    receiving := fun _ => by
      change 0 < n.toInt.toNat
      omega
    done := nofun
    failed_iff := iff_of_false nofun (by simp [Srr.opened, herr]) }

theorem SrrFacts.afterFirst {r : Srr} (h : SrrFacts r) (hst : r.st = .receiving) {idx : U16} (hidx : idx.toNat < r.n)
    (hfirst : readBit r.flags idx.toNat = false) (last : Bool) (c : Bytes) :
    SrrFacts (r.afterFirst idx.toNat last c) := by
  have hcounted := counted_marked h.counted hidx hfirst c
  have hroom := h.receiving hst
  have herr := h.err_of_running (by simp [hst])
  have hst' : (r.afterFirst idx.toNat last c).st = if r.rcount + 1 = r.n then .done else .receiving := rfl
  exact { h with
    flags_wf := hcounted.flags_wf
    rb_wf := hcounted.rb_wf
    count := hcounted.count
    entries := hcounted.entries
    flags_lt := hcounted.below
    awaitHs := fun heq => by
      rw [hst'] at heq
      split at heq <;> cases heq
    receiving := fun heq => by
      rw [hst'] at heq
      split at heq
      · cases heq
      · change r.rcount + 1 < r.n
        omega
    done := fun heq => by
      rw [hst'] at heq
      split at heq
      · assumption
      · cases heq
    failed_iff := iff_of_false (by rw [hst']; split <;> nofun) (by simp [Srr.afterFirst, marked, herr]) }

theorem SrrFacts.ended {r : Srr} (h : SrrFacts r) {st : SrrSt} {err : Err} (hrun : st.running = false)
    (hdone : st ≠ .done) (herr : st = .failed ↔ err ≠ .none) : SrrFacts { r with st := st, err := err } :=
  { h with
    awaitHs := fun heq => absurd hrun (by rw [show st = .awaitHs from heq]; nofun)
    receiving := fun heq => absurd hrun (by rw [show st = .receiving from heq]; nofun)
    done := fun heq => absurd heq hdone
    failed_iff := herr }

theorem SrrTurn.facts {r r' : Srr} {out : List Message} (t : SrrTurn r r' out) (h : SrrFacts r) :
    SrrFacts r' ∧ r'.st ≠ .idle := by
  cases t with
  | opened n w hst hlegal => exact ⟨h.opened hst hlegal, nofun⟩
  | oor hst =>
    exact ⟨{ h with awaitHs := fun heq => absurd (hst.symm.trans heq) nofun }, by simp [hst]⟩
  | first idx last c hst hidx hfirst =>
    refine ⟨h.afterFirst hst hidx hfirst last c, ?_⟩
    change (if r.rcount + 1 = r.n then SrrSt.done else .receiving) ≠ .idle
    split <;> nofun
  | dup idx last hst =>
    exact ⟨{ h with awaitHs := fun heq => absurd (hst.symm.trans heq) nofun }, by simp [hst]⟩
  | bad idx status hst hidx =>
    refine ⟨{ h with
      nak_wf := nakMarked_wf h.nak_wf _
      nak_lt := fun k hk => ?_
      awaitHs := fun heq => absurd (hst.symm.trans heq) nofun }, by simp [hst]⟩
    have hbit := readBit_eq_true.2 hk
    rw [readBit_nakMarked, Bool.or_eq_true, decide_eq_true_iff] at hbit
    rcases hbit with hold | rfl
    · exact h.nak_lt k (readBit_eq_true.1 hold)
    · exact hidx
  | failed err hrun herr => exact ⟨h.ended rfl nofun (iff_of_true rfl herr), nofun⟩
  | stopped hrun =>
    have herr := h.err_of_running (SrrSt.ne_failed_of_running hrun)
    exact ⟨h.ended rfl nofun (iff_of_false nofun (by simp [herr])), nofun⟩

theorem SrrTurn.edge {r r' : Srr} {out : List Message} (t : SrrTurn r r' out) : srrEdge r.st r'.st = true := by
  cases t with
  | opened n w hst =>
    rw [hst]
    rfl
  | first idx last c hst =>
    rw [hst]
    change srrEdge .receiving (if r.rcount + 1 = r.n then SrrSt.done else .receiving) = true
    split <;> rfl
  | oor => simp [srrEdge]
  | dup => simp [srrEdge]
  | bad => simp [srrEdge]
  | failed err hrun =>
    revert hrun
    cases r.st <;> simp [SrrSt.running, srrEdge]
  | stopped hrun =>
    revert hrun
    cases r.st <;> simp [SrrSt.running, srrEdge]

/-- No present entry changes (R64); when the arrays are sized nothing is stored yet (R216). -/
theorem SrrTurn.entries {r r' : Srr} {out : List Message} (t : SrrTurn r r' out) (h : SrrFacts r) {k : Nat} {c : Bytes}
    (hk : readEntry r.rb k = some c) : readEntry r'.rb k = some c := by
  cases t with
  | opened n w hst =>
    rw [h.awaitHs hst] at hk
    cases hk
  | first idx last d hst hidx hfirst =>
    have hpresent : k ≠ idx.toNat := by
      rintro rfl
      rw [(h.counted.readEntry_eq_none_iff _).2 hfirst] at hk
      cases hk
    exact (h.counted.readEntry_marked hfirst d k).trans ((if_neg hpresent).trans hk)
  | oor => exact hk
  | dup => exact hk
  | bad => exact hk
  | failed => exact hk
  | stopped => exact hk

/-! ### The starts -/

theorem Sws.started_facts {p : Params} {n : I32} {chunks : List Bytes} (hn : legalN n = true)
    (hfit : chunksFit p.maxChunk n chunks = true) : SwsFacts p (Sws.started n chunks) := by
  obtain ⟨hlow, hhigh⟩ := legalN_iff.1 hn
  obtain ⟨hlen, hfits⟩ := chunksFit_iff.1 hfit
  have hcount : (Sws.started n chunks).n = n.toInt.toNat := rfl
  have hpos : 0 < (Sws.started n chunks).n := by omega
  exact {
    seq := rfl
    i_le := Nat.zero_le _
    n_le := by omega
    chunk_length := hlen
    chunk_fits := hfits
    retry_le := withinLimit_zero _
    awaiting := fun _ => hpos
    done_pos := nofun
    end_iff := fun _ => iff_of_false hpos.ne nofun
    failed_iff := iff_of_false nofun (fun h => h rfl) }

theorem Srs.started_facts {p : Params} {n w : I32} {chunks : List Bytes} (hlegal : (legalN n && legalW w) = true)
    (hfit : chunksFit p.maxChunk n chunks = true) : SrsFacts p (Srs.started n w chunks) := by
  obtain ⟨⟨hlow, hhigh⟩, hw⟩ := legalNW_iff.1 hlegal
  obtain ⟨hlen, hfits⟩ := chunksFit_iff.1 hfit
  have hcount : (Srs.started n w chunks).n = n.toInt.toNat := rfl
  have hwindow : (Srs.started n w chunks).w = w.toInt.toNat := rfl
  exact {
    base_le := le_rfl
    next_le_n := Nat.zero_le _
    next_le_window := Nat.zero_le _
    n_le := by omega
    w_le := toNat_toInt_le w
    outst_wf := List.Pairwise.nil
    outst_mem := nofun
    base_outst := .inl rfl
    chunk_length := hlen
    chunk_fits := hfits
    retry_le := withinLimit_zero _
    awaitHs := fun _ => ⟨by omega, by omega, rfl⟩
    awaitReply := nofun
    done := nofun
    failed_iff := iff_of_false nofun (fun h => h rfl) }

/-! ### Every step of a good state -/

theorem good_resetOp (s : State) : Good (resetOp s) where
  role := roleInv_resetOp s
  sws := swsInv_iff.1 (swsInv_reset _)
  swr := swrInv_iff.1 swrInv_reset
  srs := srsInv_iff.1 (srsInv_reset _)
  srr := srrInv_iff.1 srrInv_reset

theorem Turn.good {s t : State} {out : List Message} (h : Turn s out t) (hgood : Good s) : Good t := by
  obtain ⟨⟨hsws, hsws', hswr, hswr', hsrs, hsrs', hsrr, hsrr'⟩, hgsws, hgswr, hgsrs, hgsrr⟩ := hgood
  cases h with
  | sws hmode hst h =>
    obtain ⟨hfacts, hidle, -, -⟩ := h.facts hgsws hst
    exact ⟨⟨fun _ => hidle, (absurd hmode ·), hswr, hswr', hsrs, hsrs', hsrr, hsrr'⟩, hfacts, hgswr, hgsrs, hgsrr⟩
  | swr hmode hst h =>
    obtain ⟨hfacts, hidle⟩ := h.facts hgswr hst
    exact ⟨⟨hsws, hsws', fun _ => hidle, (absurd hmode ·), hsrs, hsrs', hsrr, hsrr'⟩, hgsws, hfacts, hgsrs, hgsrr⟩
  | srs hmode h =>
    obtain ⟨hfacts, hidle, -, -⟩ := h.facts hgsrs
    exact ⟨⟨hsws, hsws', hswr, hswr', fun _ => hidle, (absurd hmode ·), hsrr, hsrr'⟩, hgsws, hgswr, hfacts, hgsrr⟩
  | srr hmode h =>
    obtain ⟨hfacts, hidle⟩ := h.facts hgsrr
    exact ⟨⟨hsws, hsws', hswr, hswr', hsrs, hsrs', fun _ => hidle, (absurd hmode ·)⟩, hgsws, hgswr, hgsrs, hfacts⟩

/-- Without a role every engine is at its reset values (R20, R21). -/
theorem Good.reset_of_none {s : State} (h : Good s) (hmode : s.mode = .none) :
    s.sws = Sws.reset ∧ s.swr = Swr.reset ∧ s.srs = Srs.reset ∧ s.srr = Srr.reset := by
  obtain ⟨-, hsws, -, hswr, -, hsrs, -, hsrr⟩ := h.role
  exact ⟨hsws (by simp [hmode]), hswr (by simp [hmode]), hsrs (by simp [hmode]), hsrr (by simp [hmode])⟩

theorem Started.good {s t : State} {out : List Message} (h : Started s out t) (hmode : s.mode = .none)
    (hgood : Good s) : Good t := by
  obtain ⟨esws, eswr, esrs, esrr⟩ := hgood.reset_of_none hmode
  obtain ⟨-, hgsws, hgswr, hgsrs, hgsrr⟩ := hgood
  cases h with
  | sws n c chunks hn hfit hc =>
    exact ⟨by simp [RoleInv, eswr, esrs, esrr, Sws.started], Sws.started_facts hn hfit, hgswr, hgsrs, hgsrr⟩
  | swsMalformed =>
    refine ⟨by simp [RoleInv, eswr, esrs, esrr], { hgsws with
      awaiting := nofun, done_pos := nofun, failed_iff := iff_of_true rfl nofun, end_iff := ?_ }, hgswr, hgsrs, hgsrr⟩
    rw [esws]
    nofun
  | swr =>
    refine ⟨by simp [RoleInv, esws, esrs, esrr], hgsws, ?_, hgsrs, hgsrr⟩
    rw [eswr] at hgswr
    exact { hgswr with
      done_iff := iff_of_false nofun (fun h => h rfl), failed_err := nofun, idle_err := nofun
      receiving_err := fun _ => rfl, stopped_err := nofun, done_err := nofun }
  | srs n w chunks hlegal hfit =>
    exact ⟨by simp [RoleInv, esws, eswr, esrr, Srs.started], hgsws, hgswr, Srs.started_facts hlegal hfit, hgsrr⟩
  | srsMalformed =>
    exact ⟨by simp [RoleInv, esws, eswr, esrr], hgsws, hgswr, hgsrs.ended rfl nofun (iff_of_true rfl nofun), hgsrr⟩
  | srr =>
    refine ⟨by simp [RoleInv, esws, eswr, esrs], hgsws, hgswr, hgsrs, ?_⟩
    rw [esrr] at hgsrr
    exact { hgsrr with
      awaitHs := fun _ => rfl, receiving := nofun, done := nofun
      failed_iff := iff_of_false nofun (fun h => h rfl) }

theorem EventTurn.good {i : Instr} {s t : State} {out : List Message} (h : EventTurn i s out t) (hgood : Good s) :
    Good t := by
  cases h with
  | result v => exact ⟨hgood.role, hgood.sws, hgood.swr, hgood.srs, hgood.srr⟩
  | ignored => exact hgood
  | reset => exact good_resetOp s
  | started hmode h => exact h.good hmode hgood
  | turned h => exact h.good hgood

/-- No present entry of a buffer changes but by `RESET` (R64). -/
theorem EventTurn.entries {i : Instr} {s t : State} {out : List Message} (h : EventTurn i s out t) (hgood : Good s)
    (hi : i ≠ .reset) (k : Nat) (c : Bytes) :
    (readEntry s.swr.rb k = some c → readEntry t.swr.rb k = some c) ∧
      (readEntry s.srr.rb k = some c → readEntry t.srr.rb k = some c) := by
  cases h with
  | result v => exact ⟨id, id⟩
  | ignored => exact ⟨id, id⟩
  | reset h => exact absurd h hi
  | started hmode h =>
    obtain ⟨-, eswr, -, esrr⟩ := hgood.reset_of_none hmode
    rw [eswr, esrr]
    exact ⟨nofun, nofun⟩
  | turned h =>
    cases h with
    | sws => exact ⟨id, id⟩
    | swr hmode hst h => exact ⟨h.entries hgood.swr, id⟩
    | srs => exact ⟨id, id⟩
    | srr hmode h => exact ⟨id, h.entries hgood.srr⟩

/-- Settles O7: each engine's invariants are kept by its turns and set up by its start. -/
theorem eventStepKeepsInvariants : Obligations.EventStepKeepsInvariants := by
  intro s t it rest i hinv hin hdec hev hstep
  obtain ⟨hpar, hgood⟩ := inv_iff.1 hinv
  obtain ⟨out, hturn⟩ := turn_of_step hgood hin hdec hev hstep
  have hgood' := hgood.setInput rest
  have hpar' : t.par = s.par := (everyStepConsumesOneAndOnlyAppends s t hstep).1
  exact ⟨inv_iff.2 ⟨hpar'.symm ▸ hpar, hturn.good hgood'⟩, hturn.entries hgood'⟩

/-! ### The window -/

/-- The outstanding packets are distinct and in the window, so there are `W` of them at most (R158). -/
theorem SrsFacts.outst_length_le {p : Params} {e : Srs} (h : SrsFacts p e) : e.outst.length ≤ e.w := by
  have hsub : e.outst ⊆ List.range' e.winBase e.w := by
    intro k hk
    have := h.outst_mem k hk
    have := h.next_le_window
    rw [List.mem_range'_1]
    omega
  have hnodup : e.outst.Nodup := h.outst_wf.imp Nat.ne_of_lt
  simpa using (hnodup.subperm hsub).length_le

theorem EventTurn.window {i : Instr} {s t : State} {out : List Message} (h : EventTurn i s out t) (hgood : Good s)
    (hi : i ≠ .reset) : s.srs.winBase ≤ t.srs.winBase ∧ s.srs.nextSeq ≤ t.srs.nextSeq := by
  cases h with
  | result v => exact ⟨le_rfl, le_rfl⟩
  | ignored => exact ⟨le_rfl, le_rfl⟩
  | reset h => exact absurd h hi
  | started hmode h =>
    obtain ⟨-, -, esrs, -⟩ := hgood.reset_of_none hmode
    rw [esrs]
    exact ⟨Nat.zero_le _, Nat.zero_le _⟩
  | turned h =>
    cases h with
    | srs hmode h => exact (h.facts hgood.srs).2.2.2
    | sws => exact ⟨le_rfl, le_rfl⟩
    | swr => exact ⟨le_rfl, le_rfl⟩
    | srr => exact ⟨le_rfl, le_rfl⟩

/-- Settles O14: the window moves by acknowledgements alone, and the rest is the sender's invariants after the step. -/
theorem windowNeverMovesBack : Obligations.WindowNeverMovesBack := by
  intro s t it rest i hinv hin hdec hev hi hstep
  obtain ⟨out, hturn⟩ := turn_of_step (inv_iff.1 hinv).2 hin hdec hev hstep
  have hgood := (inv_iff.1 hinv).2.setInput rest
  obtain ⟨hbase, hnext⟩ := hturn.window hgood hi
  have hsrs := (hturn.good hgood).srs
  exact ⟨hbase, hnext, hsrs.base_le, hsrs.next_le_n, hsrs.next_le_window, fun _ => hsrs.bounds_of_outst,
    hsrs.outst_length_le, hsrs.base_outst.imp_right readBit_eq_true.2⟩

/-! ### The transitions of R23 -/

/-- Every state register of `t` is reached from that of `s` along the transitions of R23. -/
structure Edges (s t : State) : Prop where
  sws : swsEdge s.sws.st t.sws.st = true
  swr : swrEdge s.swr.st t.swr.st = true
  srs : srsEdge s.srs.st t.srs.st = true
  srr : srrEdge s.srr.st t.srr.st = true

theorem Edges.refl (s : State) : Edges s s := by constructor <;> simp [swsEdge, swrEdge, srsEdge, srrEdge]

theorem Turn.edges {s t : State} {out : List Message} (h : Turn s out t) (hgood : Good s) : Edges s t := by
  have hrefl := Edges.refl s
  cases h with
  | sws hmode hst h => exact { hrefl with sws := h.edge hst }
  | swr hmode hst h => exact { hrefl with swr := h.edge hgood.swr hst }
  | srs hmode h => exact { hrefl with srs := h.edge }
  | srr hmode h => exact { hrefl with srr := h.edge }

theorem Started.edges {s t : State} {out : List Message} (h : Started s out t) (hmode : s.mode = .none)
    (hgood : Good s) : Edges s t := by
  obtain ⟨esws, eswr, esrs, esrr⟩ := hgood.reset_of_none hmode
  have hrefl := Edges.refl s
  cases h with
  | sws => exact { hrefl with sws := by rw [esws]; rfl }
  | swsMalformed => exact { hrefl with sws := by rw [esws]; rfl }
  | swr => exact { hrefl with swr := by rw [eswr]; rfl }
  | srs => exact { hrefl with srs := by rw [esrs]; rfl }
  | srsMalformed => exact { hrefl with srs := by rw [esrs]; rfl }
  | srr => exact { hrefl with srr := by rw [esrr]; rfl }

/-- Settles O15: engine by engine, the turns and the starts follow the table; `RESET` is the reset record. -/
theorem stateChangesFollowTheTable : Obligations.StateChangesFollowTheTable := by
  intro s t it rest i hinv hin hdec hev hstep
  obtain ⟨out, hturn⟩ := turn_of_step (inv_iff.1 hinv).2 hin hdec hev hstep
  have hgood := (inv_iff.1 hinv).2.setInput rest
  refine ⟨fun hi => ?event, fun hi => ?reset⟩
  case event =>
    have hedges : Edges (s.setInput rest) t := by
      cases hturn with
      | result v => exact { Edges.refl (s.setInput rest) with }
      | ignored => exact Edges.refl _
      | reset h => exact absurd h hi
      | started hmode h => exact h.edges hmode hgood
      | turned h => exact h.edges hgood
    exact ⟨hedges.sws, hedges.swr, hedges.srs, hedges.srr⟩
  case reset =>
    subst hi
    rw [step_of_decode_ok hin hdec] at hstep
    cases hstep
    exact ⟨rfl, rfl, rfl, rfl⟩

/-! ### What is emitted -/

theorem packetMessage_dataMessage {n k : Nat} {chunk : List Bytes} {c : Bytes} (hk : k < 65536)
    (hc : chunk[k]? = some c) : packetMessage n chunk (dataMessage n k c) := by
  have hidx : (BitVec.ofNat 16 k).toNat = k := by
    rw [BitVec.toNat_ofNat]
    omega
  refine ⟨c, ?_, ?_, rfl⟩
  · exact (congrArg (chunk[·]?) hidx).trans hc
  · exact congrArg (fun j => decide (j + 1 = n)) hidx.symm

/-- What a sender sends by index are packets of its chunk array (R71). -/
theorem packetMessage_of_mem_sent {n : Nat} {chunk : List Bytes} (hlen : chunk.length = n) (hn : n ≤ 65536)
    {ks : List Nat} (hks : ∀ k ∈ ks, k < n) {m : Message} (hm : m ∈ sent n chunk ks) : packetMessage n chunk m := by
  obtain ⟨k, hk, rfl⟩ := List.mem_map.1 hm
  have hlt := hks k hk
  have hc : chunk[k]? = some (chunk.getD k []) := by
    rw [List.getD_eq_getElem?_getD, List.getElem?_eq_getElem (hlen ▸ hlt)]
    rfl
  exact packetMessage_dataMessage (hlt.trans_le hn) hc

theorem SwsTurn.packets {p : Params} {e e' : Sws} {out : List Message} (t : SwsTurn p e e' out) (h : SwsFacts p e)
    {m : Message} (hm : m ∈ out) : packetMessage e.n e.chunk m := by
  have hlt {k : Nat} {c : Bytes} (hc : e.chunk[k]? = some c) : k < 65536 := by
    obtain ⟨hk, -⟩ := List.getElem?_eq_some_iff.1 hc
    have := h.chunk_length
    have := h.n_le
    omega
  cases t with
  | next c hnot hc =>
    rw [List.mem_singleton.1 hm]
    exact packetMessage_dataMessage (hlt hc) hc
  | resent c hleft hc =>
    rw [List.mem_singleton.1 hm]
    exact packetMessage_dataMessage (hlt hc) hc
  | done => cases hm
  | failed => cases hm
  | stopped => cases hm

theorem SrsTurn.packets {p : Params} {e e' : Srs} {out : List Message} (t : SrsTurn p e e' out) (h : SrsFacts p e)
    {m : Message} (hm : m ∈ out) : packetMessage e.n e.chunk m := by
  have hsent {ks : List Nat} (hks : ∀ k ∈ ks, k < e.n) (hmem : m ∈ sent e.n e.chunk ks) :=
    packetMessage_of_mem_sent h.chunk_length h.n_le hks hmem
  cases t with
  | opened hst =>
    refine hsent (fun k hk => ?_) hm
    have := List.mem_range.1 hk
    omega
  | acked num hst =>
    refine hsent (fun k hk => ?_) hm
    have := List.mem_range'_1.1 hk
    omega
  | resent ks hst hks hleft => exact hsent (fun k hk => (hks k hk).trans_le h.next_le_n) hm
  | failed => cases hm
  | stopped => cases hm

theorem SwrTaken.messages {r r' : Swr} {out : List Message} (t : SwrTaken r r' out) {m : Message} (hm : m ∈ out) :
    ∃ kind num, m = .ctrl kind num := by
  cases t with
  | alone => cases hm
  | accepted idx c => exact ⟨_, _, List.mem_singleton.1 hm⟩

/-- The receiver sends control replies, and a hand-off only as it ends with a complete buffer (R187, R247). -/
theorem SwrTurn.messages {r r' : Swr} {out : List Message} (t : SwrTurn r r' out) (h : SwrFacts r)
    (hst : r.st = .receiving) {m : Message} (hm : m ∈ out) : (∃ kind num, m = .ctrl kind num) ∨
      (r'.st = .done ∧ r'.err = .none ∧
        ∃ l : U16, r'.lastIdx = some l ∧ full r'.rb (l.toNat + 1) ∧ m = .sink (joined r'.rb (l.toNat + 1))) := by
  cases t with
  | rejected idx status => exact .inl ⟨_, _, List.mem_singleton.1 hm⟩
  | taken ht => exact .inl (ht.messages hm)
  | handed idx ht hfull =>
    rcases List.mem_append.1 hm with hack | hsink
    · exact .inl (ht.messages hack)
    · obtain ⟨hfacts, hst'⟩ := ht.facts h hst
      exact .inr ⟨rfl, hfacts.receiving_err hst', idx, rfl, hfull, List.mem_singleton.1 hsink⟩
  | gap idx ht hgap => exact .inl (ht.messages hm)
  | failed => cases hm
  | stopped => cases hm

/-- The same of the Selective-Repeat receiver (R217 to R222, R247). -/
theorem SrrTurn.messages {r r' : Srr} {out : List Message} (t : SrrTurn r r' out) (h : SrrFacts r) {m : Message}
    (hm : m ∈ out) : (∃ kind num, m = .ctrl kind num) ∨
      (r.st = .receiving ∧ r'.st = .done ∧ r'.err = .none ∧ full r'.rb r'.n ∧ m = .sink (joined r'.rb r'.n)) := by
  cases t with
  | opened n w hst => exact .inl ⟨_, _, List.mem_singleton.1 hm⟩
  | oor => cases hm
  | first idx last c hst hidx hfirst =>
    rcases List.mem_cons.1 hm with hack | hsink
    · exact .inl ⟨_, _, hack⟩
    · split_ifs at hsink with hall
      · have hcounted := counted_marked h.counted hidx hfirst c
        exact .inr ⟨hst, if_pos hall, h.err_of_running (by simp [hst]), hcounted.full_of_all hall,
          List.mem_singleton.1 hsink⟩
      · cases hsink
  | dup => exact .inl ⟨_, _, List.mem_singleton.1 hm⟩
  | bad =>
    split_ifs at hm
    · cases hm
    · exact .inl ⟨_, _, List.mem_singleton.1 hm⟩
  | failed => cases hm
  | stopped => cases hm

/-- Who sends what: a packet of a sender's chunk array, the handshake of the Selective-Repeat sender's start, a receiver's
control reply, or a receiver's hand-off. -/
inductive SentBy (s t : State) (m : Message) : Prop
  | sws (hmode : t.mode = .swTx) (h : packetMessage t.sws.n t.sws.chunk m)
  | srs (hmode : t.mode = .srTx) (h : packetMessage t.srs.n t.srs.chunk m)
  | hs (n w : I32) (hnone : s.mode = .none) (hmode : t.mode = .srTx) (h : m = .hs n w) (hn : n.toInt = t.srs.n)
      (hw : w.toInt = t.srs.w)
  | ctrl (hmode : t.mode = .swRx ∨ t.mode = .srRx) (kind : Byte) (num : U16) (h : m = .ctrl kind num)
  | swrSink (hmode : t.mode = .swRx) (hst : s.swr.st = .receiving) (hst' : t.swr.st = .done) (herr : t.swr.err = .none)
      (l : U16) (hlast : t.swr.lastIdx = some l) (hfull : full t.swr.rb (l.toNat + 1))
      (h : m = .sink (joined t.swr.rb (l.toNat + 1)))
  | srrSink (hmode : t.mode = .srRx) (hst : s.srr.st = .receiving) (hst' : t.srr.st = .done) (herr : t.srr.err = .none)
      (hfull : full t.srr.rb t.srr.n) (h : m = .sink (joined t.srr.rb t.srr.n))

theorem Turn.sentBy {s t : State} {out : List Message} (h : Turn s out t) (hgood : Good s) {m : Message} (hm : m ∈ out) :
    SentBy s t m := by
  cases h with
  | sws hmode hst h =>
    obtain ⟨-, -, hn, hchunk⟩ := h.facts hgood.sws hst
    have hpacket := h.packets hgood.sws hm
    rw [← hn, ← hchunk] at hpacket
    exact .sws hmode hpacket
  | srs hmode h =>
    obtain ⟨-, -, ⟨hn, -, hchunk⟩, -⟩ := h.facts hgood.srs
    have hpacket := h.packets hgood.srs hm
    rw [← hn, ← hchunk] at hpacket
    exact .srs hmode hpacket
  | swr hmode hst h =>
    rcases h.messages hgood.swr hst hm with ⟨kind, num, hctrl⟩ | ⟨hdone, herr, l, hlast, hfull, hsink⟩
    · exact .ctrl (.inl hmode) kind num hctrl
    · exact .swrSink hmode hst hdone herr l hlast hfull hsink
  | srr hmode h =>
    rcases h.messages hgood.srr hm with ⟨kind, num, hctrl⟩ | ⟨hst, hdone, herr, hfull, hsink⟩
    · exact .ctrl (.inr hmode) kind num hctrl
    · exact .srrSink hmode hst hdone herr hfull hsink

theorem Started.sentBy {s t : State} {out : List Message} (h : Started s out t) (hmode : s.mode = .none) {m : Message}
    (hm : m ∈ out) : SentBy s t m := by
  cases h with
  | sws n c chunks hn hfit hc =>
    rw [List.mem_singleton.1 hm]
    exact .sws rfl (packetMessage_dataMessage (by omega) hc)
  | srs n w chunks hlegal hfit =>
    obtain ⟨⟨hlow, -⟩, hw⟩ := legalNW_iff.1 hlegal
    refine .hs n w hmode rfl (List.mem_singleton.1 hm) ?_ ?_
    · change n.toInt = (n.toInt.toNat : Int)
      omega
    · change w.toInt = (w.toInt.toNat : Int)
      omega
  | swsMalformed => cases hm
  | swr => cases hm
  | srsMalformed => cases hm
  | srr => cases hm

theorem EventTurn.sentBy {i : Instr} {s t : State} {out : List Message} (h : EventTurn i s out t) (hgood : Good s)
    {m : Message} (hm : m ∈ out) : SentBy s t m := by
  cases h with
  | result => cases hm
  | ignored => cases hm
  | reset => cases hm
  | started hmode h => exact h.sentBy hmode hm
  | turned h => exact h.sentBy hgood hm

/-- Everything a step has emitted is sent by the engine in its role (R11). -/
theorem sentBy_of_step {s t : State} {it : Item} {rest : List Item} {i : Instr} (hgood : Good s)
    (hin : s.input = it :: rest) (hdec : decode s.par.maxChunk it = .ok i) (hev : isEventRow i = true)
    (hstep : step s = .next t) {m : Message} (hm : m ∈ t.tx.drop s.tx.length) : SentBy (s.setInput rest) t m := by
  obtain ⟨out, hturn⟩ := turn_of_step hgood hin hdec hev hstep
  have hout : t.tx.drop s.tx.length = out := by
    rw [hturn.tx]
    exact List.drop_left
  exact hturn.sentBy (hgood.setInput rest) (hout ▸ hm)

/-- Settles O16: by who sends what. -/
theorem everySentFrameIsItsChunk : Obligations.EverySentFrameIsItsChunk := by
  intro s t it rest i m hinv hin hdec hev hstep hm
  cases sentBy_of_step (inv_iff.1 hinv).2 hin hdec hev hstep hm with
  | sws hmode h => simp [hmode, h]
  | srs hmode h => simp [hmode, h]
  | hs n w hnone hmode h hn hw =>
    have hnone' : s.mode = .none := hnone
    have hhs : ∃ n w : I32, m = .hs n w ∧ n.toInt = t.srs.n ∧ w.toInt = t.srs.w := ⟨n, w, h, hn, hw⟩
    simp only [hmode]
    exact ⟨nofun, fun _ => .inr ⟨hnone', hhs⟩, nofun, nofun⟩
  | ctrl hmode kind num h =>
    rcases hmode with hmode | hmode <;> simp [hmode, h]
  | swrSink hmode hst hst' herr l hlast hfull h => simp [hmode, h]
  | srrSink hmode hst hst' herr hfull h => simp [hmode, h]

/-- Settles O17: by who sends what. -/
theorem sinkIsTheWholeBuffer : Obligations.SinkIsTheWholeBuffer := by
  intro s t it rest i b hinv hin hdec hev hstep hm
  cases sentBy_of_step (inv_iff.1 hinv).2 hin hdec hev hstep hm with
  | sws hmode h => exact h.elim
  | srs hmode h => exact h.elim
  | hs n w hnone hmode h => cases h
  | ctrl hmode kind num h => cases h
  | swrSink hmode hst hst' herr l hlast hfull h =>
    exact .inl ⟨hmode, hst, hst', herr, l, hlast, hfull, Message.sink.inj h⟩
  | srrSink hmode hst hst' herr hfull h => exact .inr ⟨hmode, hst, hst', herr, hfull, Message.sink.inj h⟩

end Sys2Proof.Machine
end

section
/-!
PROOFS. What a block makes of the events of a session: the event a delivered message or a choice of the environment is,
and what the engine of each role does on it, the cause of each change named (R240 to R245, R250, R258).
-/

-- The proofs one after the other: side by side, those of the whole text need more memory than the check allows.
set_option Elab.async false

namespace Sys2Proof.Machine

/-! ### Items as events -/

/-- The events of a session: all but a reset and a start (R250). -/
def inSession : Event → Bool
  | .reset | .start _ => false
  | .stop | .rxHs .. | .rxData .. | .rxCtrl .. | .timeout | .transportFail => true

/-- The channel message an event comes from, if it is one (R240). -/
def eventMessage : Event → Option Message
  | .rxHs n w => some (.hs n w)
  | .rxData idx last frame => some (.data idx last frame)
  | .rxCtrl kind num => some (.ctrl kind num)
  | .reset | .start _ | .stop | .timeout | .transportFail => none

/-- A block between moves: nothing presented and nothing emitted (R17). -/
def atRest (s : State) : State := { s with input := [], tx := [] }

/-- The block consumes the event: its next state with the output taken away, and the output. -/
def Hears (s : State) (ev : Event) (t : State) (out : List Message) : Prop :=
  ∃ u, consume ev (atRest s) = .ok u ∧ t = { u with tx := [] } ∧ out = u.tx

theorem hears_of_stepOn {s t : State} {it : Item} {out : List Message} {i : Instr} {ev : Event}
    (hdec : decode s.par.maxChunk (inPhase s it) = .ok i) (hexec : ∀ u, exec i u = (consume ev u).outcome)
    (h : stepOn s it = some (t, out)) : Hears s ev t out := by
  have hstep : step { s with input := [inPhase s it], tx := [] } = (consume ev (atRest s)).outcome := by
    rw [← hexec]
    exact step_of_decode_ok rfl hdec
  rw [stepOn, hstep] at h
  cases hres : consume ev (atRest s) with
  | ok u =>
    rw [hres] at h
    cases h
    exact ⟨u, hres, rfl, rfl⟩
  | error x =>
    rw [hres] at h
    cases h

/-- An operation presented in a session is the event it stands for, if it is well formed. -/
theorem hears_of_stepOn_op {s t : State} {i : Instr} {out : List Message} {ev : Event}
    (hexec : ∀ u, exec i u = (consume ev u).outcome) (h : stepOn s (.op i) = some (t, out)) :
    i.wellFormed s.par.maxChunk = true ∧ Hears s ev t out := by
  cases hwf : i.wellFormed s.par.maxChunk with
  | true => exact ⟨rfl, hears_of_stepOn (it := .op i) (decode_op_of_wellFormed hwf) hexec h⟩
  | false =>
    have hdec : decode s.par.maxChunk (.op i) = .error .illFormed := if_neg (by simp [hwf])
    have hrefused : step { s with input := [inPhase s (.op i)], tx := [] } = .refused (.undecodable .illFormed) :=
      step_of_decode_error rfl hdec
    rw [stepOn, hrefused] at h
    cases h

theorem exec_decodeCtrl (kind : Byte) (num : U16) (u : State) :
    exec (decodeCtrl kind num) u = (consume (.rxCtrl kind num) u).outcome := by
  unfold decodeCtrl
  split_ifs with hack hnak
  · rw [hack]
    rfl
  · rw [hnak]
    rfl
  · rfl

theorem exec_decodeReply (kind : Byte) (num : U16) (u : State) :
    exec (decodeReply kind num) u = (consume (.rxCtrl kind num) u).outcome := by
  unfold decodeReply
  split_ifs with hack
  · rw [hack]
    rfl
  · exact exec_decodeCtrl kind num u

@[simp] theorem lastOfByte_lastByte (last : Bool) : lastOfByte (lastByte last) = last := by cases last <;> rfl

/-- A delivered message is its event at the other end, in every phase (R240 to R245). -/
theorem hears_of_delivered {s t : State} {m : Message} {it : Item} {out : List Message}
    (hit : deliveredItem m = some it) (h : stepOn s it = some (t, out)) :
    ∃ ev, eventMessage ev = some m ∧ inSession ev = true ∧ Hears s ev t out := by
  cases m with
  | hs n w =>
    cases hit
    exact ⟨.rxHs n w, rfl, rfl, hears_of_stepOn (i := .hs n w) (decode_hs _ n w) (fun _ => rfl) h⟩
  | data idx last frame =>
    have hexec (u : State) :
        exec (.env idx (lastByte last) frame) u = (consume (.rxData idx last frame) u).outcome := by
      conv_rhs => rw [← lastOfByte_lastByte last]
      rfl
    refine ⟨.rxData idx last frame, rfl, rfl, ?_⟩
    rw [deliveredItem] at hit
    obtain rfl := Option.some.inj hit
    split_ifs at h with hlen
    · exact hears_of_stepOn (decode_env _ idx (lastByte last) hlen) hexec h
    · exact (hears_of_stepOn_op hexec h).2
  | ctrl kind num =>
    cases hit
    refine ⟨.rxCtrl kind num, rfl, rfl, ?_⟩
    by_cases hphase : phaseFormat s = some .hsr
    · refine hears_of_stepOn (i := decodeReply kind num) ?_ (exec_decodeReply kind num) h
      rw [inPhase, if_pos ⟨rfl, hphase⟩]
      exact decode_hsr _ kind num
    · refine hears_of_stepOn (i := decodeCtrl kind num) ?_ (exec_decodeCtrl kind num) h
      rw [inPhase, if_neg fun hc => hphase hc.2]
      exact decode_ctrl _ kind num
  | sink b => cases hit

/-- The three choices of the environment at either end of a session are their events (R250, R268 to R270). -/
theorem hears_of_environment {s t : State} {e : Event} {it : Item} {out : List Message}
    (he : e = .stop ∨ e = .timeout ∨ e = .transportFail) (hit : environmentItem e = some it)
    (h : stepOn s it = some (t, out)) : eventMessage e = none ∧ inSession e = true ∧ Hears s e t out := by
  rcases he with rfl | rfl | rfl
  all_goals
    cases hit
    exact ⟨rfl, rfl, (hears_of_stepOn_op (fun _ => rfl) h).2⟩

/-- The host's start is the event `START` with a well-formed request (R249). -/
theorem hears_of_start {s t : State} {r : StartReq} {out : List Message}
    (h : stepOn s (.op (.startCommon r)) = some (t, out)) :
    r.wellFormed s.par.maxChunk = true ∧ Hears s (.start r) t out := hears_of_stepOn_op (fun _ => rfl) h

/-! ### Every event of a session is a turn -/

theorem stop_and_fail_cases {s : State} {x : Engine} (hx : activeEngine s.mode = some x) :
    (running x s = true ∧ stopOp s = stopEngine x s ∧ transportFailOp s = raiseError x .transportFailure s) ∨
      (running x s = false ∧ stopOp s = s ∧ transportFailOp s = s) := by
  cases hrun : running x s with
  | true => exact .inl ⟨rfl, stopOp_of_running hx hrun, transportFailOp_of_running hx hrun⟩
  | false =>
    refine .inr ⟨rfl, stopOp_of_not_running fun y hy => ?_⟩
    obtain rfl := Option.some.inj (hx.symm.trans hy)
    exact hrun

theorem consume_turn {s : State} (hgood : Good s) {ev : Event} (hev : inSession ev = true) :
    consume ev s = .ok s ∨ ∃ out t, consume ev s = .ok t ∧ Turn s out t := by
  obtain ⟨hstop, hfail⟩ := stopOp_turn hgood.role
  have hrule {x : Res} (h : x = .ok s ∨ ∃ r, x = runRule r s) : x = .ok s ∨ ∃ out t, x = .ok t ∧ Turn s out t := by
    rcases h with h | ⟨r, rfl⟩
    · exact .inl h
    · exact runRule_turn hgood r
  cases ev with
  | reset => cases hev
  | start r => cases hev
  | stop => exact hstop.imp (congrArg Except.ok) fun h => ⟨[], _, rfl, h⟩
  | transportFail => exact hfail.imp (congrArg Except.ok) fun h => ⟨[], _, rfl, h⟩
  | rxHs n w => exact hrule ((rxHs_form n w s).imp (congrArg Except.ok) fun ⟨r, h, _⟩ => ⟨r, h⟩)
  | rxData idx last frame =>
    exact hrule ((rxData_form idx last frame s).imp (congrArg Except.ok) fun ⟨r, h, _⟩ => ⟨r, h⟩)
  | rxCtrl kind num => exact hrule ((rxCtrl_form kind num s).imp_right fun ⟨r, h, _⟩ => ⟨r, h⟩)
  | timeout => exact hrule (timeoutOp_form s)

theorem Turn.mode_par {s t : State} {out : List Message} (h : Turn s out t) : t.mode = s.mode ∧ t.par = s.par := by
  cases h <;> exact ⟨rfl, rfl⟩

theorem Good.atRest {s : State} (h : Good s) : Good (atRest s) := ⟨h.role, h.sws, h.swr, h.srs, h.srr⟩

/-- A good block stays good, in its role and with its parameters (R29, R36, R249). -/
theorem Hears.good {s t : State} {ev : Event} {out : List Message} (h : Hears s ev t out) (hgood : Good s)
    (hev : inSession ev = true) : Good t ∧ t.mode = s.mode ∧ t.par = s.par := by
  obtain ⟨u, hu, rfl, -⟩ := h
  rcases consume_turn hgood.atRest hev with heq | ⟨more, v, heq, hturn⟩
  · obtain rfl := Except.ok.inj (hu.symm.trans heq)
    exact ⟨⟨hgood.role, hgood.sws, hgood.swr, hgood.srs, hgood.srr⟩, rfl, rfl⟩
  · obtain rfl := Except.ok.inj (hu.symm.trans heq)
    obtain ⟨hrole, hsws, hswr, hsrs, hsrr⟩ := hturn.good hgood.atRest
    obtain ⟨hmode, hpar⟩ := hturn.mode_par
    exact ⟨⟨hrole, hsws, hswr, hsrs, hsrr⟩, hmode, hpar⟩

/-! ### The Stop-and-Wait sender -/

theorem Hears.swTx {s t : State} {ev : Event} {out : List Message} (h : Hears s ev t out) (hgood : Good s)
    (hmode : s.mode = .swTx) (hev : inSession ev = true) :
    (t.sws = s.sws ∧ out = []) ∨ (s.sws.st = .awaitingAck ∧ SwsTurn s.par s.sws t.sws out) := by
  obtain ⟨u, hu, rfl, rfl⟩ := h
  rcases consume_turn hgood.atRest hev with heq | ⟨more, v, heq, hturn⟩
  · obtain rfl := Except.ok.inj (hu.symm.trans heq)
    exact .inl ⟨rfl, rfl⟩
  · obtain rfl := Except.ok.inj (hu.symm.trans heq)
    cases hturn with
    | sws _ hst h => exact .inr ⟨hst, h⟩
    | swr hmode' => exact absurd (hmode.symm.trans hmode') nofun
    | srs hmode' => exact absurd (hmode.symm.trans hmode') nofun
    | srr hmode' => exact absurd (hmode.symm.trans hmode') nofun

/-! ### The Stop-and-Wait receiver -/

/-- The chunk the receiver's codec gives for a frame (R125). -/
abbrev chunkOf (maxChunk : Option Nat) (frame : Bytes) : Bytes := (decodeFrame maxChunk frame).chunk

/-- What the Stop-and-Wait receiver makes of an event: the frames it takes in are those of the data it is given (R182 to
R188). -/
inductive SwrHeard (maxChunk : Option Nat) (r : Swr) : Event → Swr → List Message → Prop
  | kept (ev : Event) (status : RxStat) (out : List Message) (hout : ∀ m ∈ out, sinkBytes m = none) :
      SwrHeard maxChunk r ev { r with rxStat := status } out
  | ended (ev : Event) (st : SwrSt) (err : Err) (hst : r.st = .receiving) (hst' : st ≠ .done) :
      SwrHeard maxChunk r ev { r with st := st, err := err } []
  | accepted (idx : U16) (frame : Bytes) (hvalid : (decodeFrame maxChunk frame).valid = true) :
      SwrHeard maxChunk r (.rxData idx false frame)
        { r with rxStat := .ok, rb := storedRb r.rb idx.toNat (chunkOf maxChunk frame) }
        [.ctrl Config.ackKind (swrAckNum idx)]
  | handed (idx : U16) (frame : Bytes) (hst : r.st = .receiving) (hvalid : (decodeFrame maxChunk frame).valid = true)
      (hfull : full (storedRb r.rb idx.toNat (chunkOf maxChunk frame)) (idx.toNat + 1)) :
      SwrHeard maxChunk r (.rxData idx true frame)
        { r with
          rxStat := .ok, rb := storedRb r.rb idx.toNat (chunkOf maxChunk frame), lastIdx := some idx, st := .done }
        [.ctrl Config.ackKind (swrAckNum idx),
          .sink (joined (storedRb r.rb idx.toNat (chunkOf maxChunk frame)) (idx.toNat + 1))]
  | gap (idx : U16) (frame : Bytes) (hst : r.st = .receiving) (hvalid : (decodeFrame maxChunk frame).valid = true) :
      SwrHeard maxChunk r (.rxData idx true frame)
        { r with
          rxStat := .ok, rb := storedRb r.rb idx.toNat (chunkOf maxChunk frame), lastIdx := some idx, st := .done
          err := .incompleteReassembly }
        [.ctrl Config.ackKind (swrAckNum idx)]

theorem SwrHeard.silent (maxChunk : Option Nat) (r : Swr) (ev : Event) : SwrHeard maxChunk r ev r [] :=
  .kept ev r.rxStat [] nofun

theorem swrData_heard {s : State} (idx : U16) (last : Bool) (frame : Bytes) : ∃ e out,
    swrData idx last frame s = { s with swr := e, tx := s.tx ++ out } ∧
      SwrHeard s.par.maxChunk s.swr (.rxData idx last frame) e out := by
  by_cases hst : s.swr.st = .receiving
  case neg =>
    refine ⟨s.swr, [], ?_, .silent _ _ _⟩
    rw [swrData_of_not_receiving hst, List.append_nil]
  cases hvalid : (decodeFrame s.par.maxChunk frame).valid with
  | false =>
    rw [swrData_of_bad (swrCase_of_invalid hst hvalid)]
    refine ⟨_, _, rfl, .kept _ _ _ fun m hm => ?_⟩
    rw [List.mem_singleton.1 hm]
    rfl
  | true =>
    rw [swrData_of_valid hst (decodeFrame_valid_status hvalid)]
    cases last with
    | false => exact ⟨_, _, swrAccept_of_not_last idx _ s, .accepted idx frame hvalid⟩
    | true =>
      by_cases hfull : full (storedRb s.swr.rb idx.toNat (chunkOf s.par.maxChunk frame)) (idx.toNat + 1)
      · exact ⟨_, _, swrAccept_of_full hfull s, .handed idx frame hst hvalid hfull⟩
      · exact ⟨_, _, swrAccept_of_not_full hfull s, .gap idx frame hst hvalid⟩

theorem consume_swRx {s : State} (hmode : s.mode = .swRx) {ev : Event} (hev : inSession ev = true) : ∃ e out,
    consume ev s = .ok { s with swr := e, tx := s.tx ++ out } ∧ SwrHeard s.par.maxChunk s.swr ev e out := by
  have hsilent {x : Res} (h : x = .ok s) : ∃ e out, x = .ok { s with swr := e, tx := s.tx ++ out } ∧
      SwrHeard s.par.maxChunk s.swr ev e out := by
    refine ⟨s.swr, [], ?_, .silent _ _ _⟩
    rw [h, List.append_nil]
  have hx : activeEngine s.mode = some .swr := by
    rw [hmode]
    rfl
  have hcases := stop_and_fail_cases hx
  cases ev with
  | reset => cases hev
  | start r => cases hev
  | stop =>
    rcases hcases with ⟨hrun, hstop, -⟩ | ⟨-, hstop, -⟩
    · refine ⟨_, [], congrArg Except.ok ?_, .ended _ .stopped s.swr.err (SwrSt.running_iff.1 hrun) nofun⟩
      rw [hstop, List.append_nil]
      rfl
    · exact hsilent (congrArg Except.ok hstop)
  | transportFail =>
    rcases hcases with ⟨hrun, -, hfail⟩ | ⟨-, -, hfail⟩
    · refine ⟨_, [], congrArg Except.ok ?_, .ended _ .failed .transportFailure (SwrSt.running_iff.1 hrun) nofun⟩
      rw [hfail, List.append_nil]
      rfl
    · exact hsilent (congrArg Except.ok hfail)
  | rxHs n w => exact hsilent (congrArg Except.ok (rxHs_of_unused (.inl (by simp [hmode])) n w))
  | rxData idx last frame =>
    obtain ⟨e, out, heq, hheard⟩ := swrData_heard (s := s) idx last frame
    have hrx : rxData idx last frame s = swrData idx last frame s := by rw [rxData, hmode]
    exact ⟨e, out, congrArg Except.ok (hrx.trans heq), hheard⟩
  | rxCtrl kind num => exact hsilent (by rw [consume, rxCtrl, hmode])
  | timeout => exact hsilent (by rw [consume, timeoutOp, hmode])

theorem Hears.swRx {s t : State} {ev : Event} {out : List Message} (h : Hears s ev t out) (hmode : s.mode = .swRx)
    (hev : inSession ev = true) : SwrHeard s.par.maxChunk s.swr ev t.swr out := by
  obtain ⟨u, hu, rfl, rfl⟩ := h
  obtain ⟨e, more, heq, hheard⟩ := consume_swRx (s := atRest s) hmode hev
  obtain rfl := Except.ok.inj (hu.symm.trans heq)
  exact hheard

/-! ### The Selective-Repeat sender -/

/-- What the Selective-Repeat sender makes of an event: the window moves by `ACK`s alone (R202 to R206). -/
inductive SrsHeard (p : Params) (e : Srs) : Event → Srs → List Message → Prop
  | kept (ev : Event) (hnot : e.st = .awaitHsAck → ∀ num, ev ≠ .rxCtrl Config.ackKind num) : SrsHeard p e ev e []
  | opened (num : U16) (hst : e.st = .awaitHsAck) : SrsHeard p e (.rxCtrl Config.ackKind num) e.opened
      (sent e.n e.chunk (List.range (min e.n e.w)))
  | acked (num : U16) (hst : e.st = .awaitReply) :
      SrsHeard p e (.rxCtrl Config.ackKind num) (e.afterAck num) (e.ackSends num)
  | steady {e' : Srs} {out : List Message} (ev : Event) (h : SrsTurn p e e' out) (hsteady : e.Steady e') :
      SrsHeard p e ev e' out

/-- Whatever it makes of an event is a turn, or nothing. -/
theorem SrsHeard.turn {p : Params} {e e' : Srs} {ev : Event} {out : List Message} (h : SrsHeard p e ev e' out) :
    SrsTurn p e e' out ∨ (e' = e ∧ out = []) := by
  cases h with
  | kept => exact .inr ⟨rfl, rfl⟩
  | opened num hst => exact .inl (.opened hst)
  | acked num hst => exact .inl (.acked num hst)
  | steady _ h => exact .inl h

theorem consume_srTx {s : State} (hgood : Good s) (hmode : s.mode = .srTx) {ev : Event} (hev : inSession ev = true) :
    ∃ e out, consume ev s = .ok { s with srs := e, tx := s.tx ++ out } ∧ SrsHeard s.par s.srs ev e out := by
  have hsilent {x : Res} (h : x = .ok s) (hnot : s.srs.st = .awaitHsAck → ∀ num, ev ≠ .rxCtrl Config.ackKind num) :
      ∃ e out, x = .ok { s with srs := e, tx := s.tx ++ out } ∧ SrsHeard s.par s.srs ev e out := by
    refine ⟨s.srs, [], ?_, .kept ev hnot⟩
    rw [h, List.append_nil]
  have hx : activeEngine s.mode = some .srs := by
    rw [hmode]
    rfl
  have hcases := stop_and_fail_cases hx
  cases ev with
  | reset => cases hev
  | start r => cases hev
  | stop =>
    rcases hcases with ⟨hrun, hstop, -⟩ | ⟨-, hstop, -⟩
    · refine ⟨_, [], congrArg Except.ok ?_, .steady _ (.stopped hrun) ⟨rfl, rfl, .inr (.inr rfl)⟩⟩
      rw [hstop, List.append_nil]
      rfl
    · exact hsilent (congrArg Except.ok hstop) nofun
  | transportFail =>
    rcases hcases with ⟨hrun, -, hfail⟩ | ⟨-, -, hfail⟩
    · refine ⟨_, [], congrArg Except.ok ?_,
        .steady _ (.failed .transportFailure hrun nofun) ⟨rfl, rfl, .inr (.inl rfl)⟩⟩
      rw [hfail, List.append_nil]
      rfl
    · exact hsilent (congrArg Except.ok hfail) nofun
  | rxHs n w => exact hsilent (congrArg Except.ok (rxHs_of_unused (.inl (by simp [hmode])) n w)) nofun
  | rxData idx last frame =>
    exact hsilent (congrArg Except.ok (rxData_of_unused (by simp [hmode]) (by simp [hmode]) idx last frame)) nofun
  | timeout =>
    rw [consume, timeoutOp_of_srTx hmode]
    by_cases hst : s.srs.st = .awaitReply
    · obtain ⟨e, out, heq, hturn, hsteady⟩ := srsTimeout_turn hgood.srs hst
      exact ⟨e, out, heq, .steady _ hturn hsteady⟩
    · exact hsilent (srsTimeout_of_not_await hst) nofun
  | rxCtrl kind num =>
    rw [consume]
    by_cases hack : kind = Config.ackKind
    · subst hack
      by_cases hhs : s.srs.st = .awaitHsAck
      · rw [rxCtrl_ack_of_awaitHs hmode hhs]
        exact ⟨_, _, srsHsack_of_await hgood.srs hhs, .opened num hhs⟩
      · rw [rxCtrl_ack_of_srTx hmode hhs]
        by_cases hst : s.srs.st = .awaitReply
        · exact ⟨_, _, srsAck_of_await hgood.srs hst num, .acked num hst⟩
        · exact hsilent (srsAck_of_not_await hst num) fun h => absurd h hhs
    have hnot : s.srs.st = .awaitHsAck → ∀ k, Event.rxCtrl kind num ≠ .rxCtrl Config.ackKind k :=
      fun _ k heq => hack (Event.rxCtrl.inj heq).1
    by_cases hnak : kind = Config.nakKind
    · subst hnak
      rw [rxCtrl_nak_of_srTx hmode]
      by_cases hst : s.srs.st = .awaitReply
      · rcases srsNak_turn hgood.srs hst num with heq | ⟨e, out, heq, hturn, hsteady⟩
        · exact hsilent heq hnot
        · exact ⟨e, out, heq, .steady _ hturn hsteady⟩
      · exact hsilent (srsNak_of_not_await hst num) hnot
    · exact hsilent (rxCtrl_of_reserved hack hnak num s) hnot

theorem Hears.srTx {s t : State} {ev : Event} {out : List Message} (h : Hears s ev t out) (hgood : Good s)
    (hmode : s.mode = .srTx) (hev : inSession ev = true) : SrsHeard s.par s.srs ev t.srs out := by
  obtain ⟨u, hu, rfl, rfl⟩ := h
  obtain ⟨e, more, heq, hheard⟩ := consume_srTx hgood.atRest hmode hev
  obtain rfl := Except.ok.inj (hu.symm.trans heq)
  exact hheard

/-! ### The Selective-Repeat receiver -/

/-- What was received, and the session's size, are as before. -/
structure Srr.Steady (r r' : Srr) : Prop where
  n : r'.n = r.n
  w : r'.w = r.w
  flags : r'.flags = r.flags
  rb : r'.rb = r.rb
  rcount : r'.rcount = r.rcount

/-- What the Selective-Repeat receiver makes of an event: the frames it takes in are those of the data it is given, the
session's size is that of the handshake (R217 to R227). -/
inductive SrrHeard (maxChunk : Option Nat) (r : Srr) : Event → Srr → List Message → Prop
  | kept {r' : Srr} (ev : Event) (out : List Message) (hsteady : r.Steady r') (hst : r'.st = r.st)
      (hout : ∀ m ∈ out, (∃ idx last frame, ev = .rxData idx last frame) ∧ ∃ num, m = .ctrl Config.nakKind num) :
      SrrHeard maxChunk r ev r' out
  | ended (ev : Event) (st : SrrSt) (err : Err) (hrun : r.st.running = true) (hst : st = .failed ∨ st = .stopped) :
      SrrHeard maxChunk r ev { r with st := st, err := err } []
  | opened (n w : I32) (hst : r.st = .awaitHs) (hlegal : (legalN n && legalW w) = true) :
      SrrHeard maxChunk r (.rxHs n w) (r.opened n w) [.ctrl Config.ackKind 0]
  | first (idx : U16) (last : Bool) (frame : Bytes) (hst : r.st = .receiving) (hidx : idx.toNat < r.n)
      (hfirst : readBit r.flags idx.toNat = false) (hvalid : (decodeFrame maxChunk frame).valid = true) :
      SrrHeard maxChunk r (.rxData idx last frame) (r.afterFirst idx.toNat last (chunkOf maxChunk frame))
        (r.firstSends idx (chunkOf maxChunk frame))
  | dup (idx : U16) (last : Bool) (frame : Bytes) (hst : r.st = .receiving) (hdup : readBit r.flags idx.toNat = true) :
      SrrHeard maxChunk r (.rxData idx last frame) { r with lastSeen := r.lastSeen || last, rxStat := .ok }
        [.ctrl Config.ackKind idx]

theorem SrrHeard.silent (maxChunk : Option Nat) (r : Srr) (ev : Event) : SrrHeard maxChunk r ev r [] :=
  .kept ev [] ⟨rfl, rfl, rfl, rfl, rfl⟩ rfl nofun

theorem srrData_heard {s : State} (h : SrrFacts s.srr) (idx : U16) (last : Bool) (frame : Bytes) : ∃ e out,
    srrData idx last frame s = { s with srr := e, tx := s.tx ++ out } ∧
      SrrHeard s.par.maxChunk s.srr (.rxData idx last frame) e out := by
  by_cases hst : s.srr.st = .receiving
  case neg =>
    refine ⟨s.srr, [], ?_, .silent _ _ _⟩
    rw [srrData_of_not_receiving hst, List.append_nil]
  by_cases hidx : idx.toNat < s.srr.n
  case neg =>
    refine ⟨{ s.srr with oor := true, rxStat := .outOfRange }, [], ?_, .kept _ _ ⟨rfl, rfl, rfl, rfl, rfl⟩ rfl nofun⟩
    rw [srrData_of_oor (srrCase_of_oor hst (Nat.le_of_not_lt hidx) frame), srrOor_eq, List.append_nil]
  cases hvalid : (decodeFrame s.par.maxChunk frame).valid with
  | true =>
    cases hflag : readBit s.srr.flags idx.toNat with
    | true =>
      rw [srrData_of_dup (srrCase_of_dup hst hidx hflag hvalid)]
      exact ⟨_, _, srrDup_eq idx last s, .dup idx last frame hst hflag⟩
    | false =>
      rw [srrData_of_first (srrCase_of_first hst hidx hflag hvalid)]
      exact ⟨_, _, srrFirst_eq h.counted hst hidx hflag last _, .first idx last frame hst hidx hflag hvalid⟩
  | false =>
    rw [srrData_of_bad (srrCase_of_invalid hst hidx hvalid)]
    refine ⟨_, _, srrBad_eq idx _ s, .kept _ _ ⟨rfl, rfl, rfl, rfl, rfl⟩ rfl fun m hm => ⟨⟨_, _, _, rfl⟩, idx, ?_⟩⟩
    split_ifs at hm
    · cases hm
    · exact List.mem_singleton.1 hm

theorem srrHs_heard {s : State} (n w : I32) : ∃ e out, srrHs n w s = { s with srr := e, tx := s.tx ++ out } ∧
    SrrHeard s.par.maxChunk s.srr (.rxHs n w) e out := by
  by_cases hst : s.srr.st = .awaitHs
  case neg =>
    refine ⟨s.srr, [], ?_, .silent _ _ _⟩
    rw [srrHs_of_not_await hst, List.append_nil]
  cases hlegal : legalN n && legalW w with
  | true =>
    rw [srrHs_of_legal hst hlegal]
    exact ⟨_, _, srrHsLegal_eq n w s, .opened n w hst hlegal⟩
  | false =>
    refine ⟨_, [], ?_, .ended _ .failed .malformedHandshake (by rw [hst]; rfl) (.inl rfl)⟩
    rw [srrHs_of_illegal hst hlegal, List.append_nil]
    rfl

theorem consume_srRx {s : State} (hgood : Good s) (hmode : s.mode = .srRx) {ev : Event} (hev : inSession ev = true) :
    ∃ e out, consume ev s = .ok { s with srr := e, tx := s.tx ++ out } ∧
      SrrHeard s.par.maxChunk s.srr ev e out := by
  have hsilent {x : Res} (h : x = .ok s) : ∃ e out, x = .ok { s with srr := e, tx := s.tx ++ out } ∧
      SrrHeard s.par.maxChunk s.srr ev e out := by
    refine ⟨s.srr, [], ?_, .silent _ _ _⟩
    rw [h, List.append_nil]
  have hx : activeEngine s.mode = some .srr := by
    rw [hmode]
    rfl
  have hcases := stop_and_fail_cases hx
  cases ev with
  | reset => cases hev
  | start r => cases hev
  | stop =>
    rcases hcases with ⟨hrun, hstop, -⟩ | ⟨-, hstop, -⟩
    · refine ⟨_, [], congrArg Except.ok ?_, .ended _ .stopped s.srr.err hrun (.inr rfl)⟩
      rw [hstop, List.append_nil]
      rfl
    · exact hsilent (congrArg Except.ok hstop)
  | transportFail =>
    rcases hcases with ⟨hrun, -, hfail⟩ | ⟨-, -, hfail⟩
    · refine ⟨_, [], congrArg Except.ok ?_, .ended _ .failed .transportFailure hrun (.inl rfl)⟩
      rw [hfail, List.append_nil]
      rfl
    · exact hsilent (congrArg Except.ok hfail)
  | rxHs n w =>
    obtain ⟨e, out, heq, hheard⟩ := srrHs_heard (s := s) n w
    have hrx : rxHs n w s = srrHs n w s := by rw [rxHs, hmode]
    exact ⟨e, out, congrArg Except.ok (hrx.trans heq), hheard⟩
  | rxData idx last frame =>
    obtain ⟨e, out, heq, hheard⟩ := srrData_heard hgood.srr idx last frame
    have hrx : rxData idx last frame s = srrData idx last frame s := by rw [rxData, hmode]
    exact ⟨e, out, congrArg Except.ok (hrx.trans heq), hheard⟩
  | rxCtrl kind num => exact hsilent (by rw [consume, rxCtrl, hmode])
  | timeout => exact hsilent (by rw [consume, timeoutOp, hmode])

theorem Hears.srRx {s t : State} {ev : Event} {out : List Message} (h : Hears s ev t out) (hgood : Good s)
    (hmode : s.mode = .srRx) (hev : inSession ev = true) : SrrHeard s.par.maxChunk s.srr ev t.srr out := by
  obtain ⟨u, hu, rfl, rfl⟩ := h
  obtain ⟨e, more, heq, hheard⟩ := consume_srRx hgood.atRest hmode hev
  obtain rfl := Except.ok.inj (hu.symm.trans heq)
  exact hheard

end Sys2Proof.Machine
end

section
/-!
PROOFS. A session move by move: the forms a fair move takes, what it keeps at either end, and the Stop-and-Wait session, which
hands over the original stream or nothing (R16, R17, R190, R247, R250).
-/

-- The proofs one after the other: side by side, those of the whole text need more memory than the check allows.
set_option Elab.async false

namespace Sys2Proof.Machine

/-! ### The moves -/

/-- A fair move inside a session: the channel loses or alters a `TX_DATA`, or one end consumes one event, which is the
oldest message of its queue or comes from the environment (R17, R250). -/
inductive MoveForm (x : Session) : Session → Prop
  | drop {idx : U16} {last : Bool} {frame : Bytes} {rest : List Message} (hdown : x.down = .data idx last frame :: rest) :
      MoveForm x { x with down := rest }
  | corrupt {idx : U16} {last : Bool} {frame : Bytes} {rest : List Message} (frame' : Bytes)
      (hdown : x.down = .data idx last frame :: rest)
      (hbad : (decodeFrame x.receiver.par.maxChunk frame').valid = false) :
      MoveForm x { x with down := .data idx last frame' :: rest }
  | sender {ev : Event} {up out : List Message} {t : State} (hup : x.up = (eventMessage ev).toList ++ up)
      (hev : inSession ev = true) (h : Hears x.sender ev t out) :
      MoveForm x { x with
        sender := t, up := up, down := x.down ++ out.filter onChannel, sunk := x.sunk ++ out.filterMap sinkBytes }
  | receiver {ev : Event} {down out : List Message} {t : State} (hdown : x.down = (eventMessage ev).toList ++ down)
      (hev : inSession ev = true) (h : Hears x.receiver ev t out) :
      MoveForm x { x with
        receiver := t, down := down, up := x.up ++ out.filter onChannel, sunk := x.sunk ++ out.filterMap sinkBytes }

theorem senderMove_eq_some {x y : Session} {it : Item} (h : senderMove x it = some y) : ∃ t out,
    stepOn x.sender it = some (t, out) ∧ y = { x with
      sender := t, down := x.down ++ out.filter onChannel, sunk := x.sunk ++ out.filterMap sinkBytes } := by
  unfold senderMove at h
  split at h
  · exact ⟨_, _, ‹_›, (Option.some.inj h).symm⟩
  · cases h

theorem receiverMove_eq_some {x y : Session} {it : Item} (h : receiverMove x it = some y) : ∃ t out,
    stepOn x.receiver it = some (t, out) ∧ y = { x with
      receiver := t, up := x.up ++ out.filter onChannel, sunk := x.sunk ++ out.filterMap sinkBytes } := by
  unfold receiverMove at h
  split at h
  · exact ⟨_, _, ‹_›, (Option.some.inj h).symm⟩
  · cases h

theorem moveForm {x y : Session} {m : Move} (hfair : fairMove x.receiver.par.maxChunk m) (h : move m x = some y) :
    MoveForm x y := by
  cases m with
  | toSender e =>
    rw [move] at h
    split at h
    case h_2 => cases h
    case h_1 it hit =>
      obtain ⟨t, out, hstep, rfl⟩ := senderMove_eq_some h
      obtain ⟨hnone, hev, hears⟩ := hears_of_environment hfair hit hstep
      exact .sender (by rw [hnone]; rfl) hev hears
  | toReceiver e =>
    rw [move] at h
    split at h
    case h_2 => cases h
    case h_1 it hit =>
      obtain ⟨t, out, hstep, rfl⟩ := receiverMove_eq_some h
      obtain ⟨hnone, hev, hears⟩ := hears_of_environment hfair hit hstep
      exact .receiver (by rw [hnone]; rfl) hev hears
  | deliverDown =>
    rw [move] at h
    split at h
    case h_1 => cases h
    case h_2 d rest hdown =>
      split at h
      case h_2 => cases h
      case h_1 it hit =>
        obtain ⟨t, out, hstep, rfl⟩ := receiverMove_eq_some h
        obtain ⟨ev, hmessage, hev, hears⟩ := hears_of_delivered hit hstep
        exact .receiver (by rw [hmessage, hdown]; rfl) hev hears
  | deliverUp =>
    rw [move] at h
    split at h
    case h_1 => cases h
    case h_2 d rest hup =>
      split at h
      case h_2 => cases h
      case h_1 it hit =>
        obtain ⟨t, out, hstep, rfl⟩ := senderMove_eq_some h
        obtain ⟨ev, hmessage, hev, hears⟩ := hears_of_delivered hit hstep
        exact .sender (by rw [hmessage, hup]; rfl) hev hears
  | drop =>
    rw [move] at h
    split at h <;> cases h
    exact .drop ‹_›
  | corrupt frame =>
    rw [move] at h
    split at h <;> cases h
    exact .corrupt frame ‹_› hfair

/-! ### What a move keeps at either end -/

/-- What no move inside a session writes: the parameters, and the sender's stream and window size. -/
structure Session.Kept (x y : Session) : Prop where
  senderPar : y.sender.par = x.sender.par
  receiverPar : y.receiver.par = x.receiver.par
  senderMode : y.sender.mode = x.sender.mode
  receiverMode : y.receiver.mode = x.receiver.mode
  swsN : y.sender.sws.n = x.sender.sws.n
  swsChunk : y.sender.sws.chunk = x.sender.sws.chunk
  srsN : y.sender.srs.n = x.sender.srs.n
  srsW : y.sender.srs.w = x.sender.srs.w
  srsChunk : y.sender.srs.chunk = x.sender.srs.chunk

theorem Session.Kept.refl (x : Session) : x.Kept x := ⟨rfl, rfl, rfl, rfl, rfl, rfl, rfl, rfl, rfl⟩

theorem Session.Kept.trans {x y z : Session} (h : x.Kept y) (k : y.Kept z) : x.Kept z where
  senderPar := k.senderPar.trans h.senderPar
  receiverPar := k.receiverPar.trans h.receiverPar
  senderMode := k.senderMode.trans h.senderMode
  receiverMode := k.receiverMode.trans h.receiverMode
  swsN := k.swsN.trans h.swsN
  swsChunk := k.swsChunk.trans h.swsChunk
  srsN := k.srsN.trans h.srsN
  srsW := k.srsW.trans h.srsW
  srsChunk := k.srsChunk.trans h.srsChunk

theorem Turn.stream_kept {s t : State} {out : List Message} (h : Turn s out t) (hgood : Good s) :
    (t.sws.n = s.sws.n ∧ t.sws.chunk = s.sws.chunk) ∧
      t.srs.n = s.srs.n ∧ t.srs.w = s.srs.w ∧ t.srs.chunk = s.srs.chunk := by
  cases h with
  | sws hmode hst h => exact ⟨(h.facts hgood.sws hst).2.2, rfl, rfl, rfl⟩
  | srs hmode h => exact ⟨⟨rfl, rfl⟩, (h.facts hgood.srs).2.2.1⟩
  | swr => exact ⟨⟨rfl, rfl⟩, rfl, rfl, rfl⟩
  | srr => exact ⟨⟨rfl, rfl⟩, rfl, rfl, rfl⟩

theorem Hears.stream_kept {s t : State} {ev : Event} {out : List Message} (h : Hears s ev t out) (hgood : Good s)
    (hev : inSession ev = true) : (t.sws.n = s.sws.n ∧ t.sws.chunk = s.sws.chunk) ∧
      t.srs.n = s.srs.n ∧ t.srs.w = s.srs.w ∧ t.srs.chunk = s.srs.chunk := by
  obtain ⟨u, hu, rfl, -⟩ := h
  rcases consume_turn hgood.atRest hev with heq | ⟨more, v, heq, hturn⟩
  · obtain rfl := Except.ok.inj (hu.symm.trans heq)
    exact ⟨⟨rfl, rfl⟩, rfl, rfl, rfl⟩
  · obtain rfl := Except.ok.inj (hu.symm.trans heq)
    exact hturn.stream_kept hgood.atRest

theorem MoveForm.kept {x y : Session} (h : MoveForm x y) (hsender : Good x.sender) (hreceiver : Good x.receiver) :
    x.Kept y ∧ Good y.sender ∧ Good y.receiver := by
  cases h with
  | drop => exact ⟨⟨rfl, rfl, rfl, rfl, rfl, rfl, rfl, rfl, rfl⟩, hsender, hreceiver⟩
  | corrupt => exact ⟨⟨rfl, rfl, rfl, rfl, rfl, rfl, rfl, rfl, rfl⟩, hsender, hreceiver⟩
  | sender hup hev h =>
    obtain ⟨hgood, hmode, hpar⟩ := h.good hsender hev
    obtain ⟨⟨hn, hchunk⟩, hn', hw', hchunk'⟩ := h.stream_kept hsender hev
    exact ⟨⟨hpar, rfl, hmode, rfl, hn, hchunk, hn', hw', hchunk'⟩, hgood, hreceiver⟩
  | receiver hdown hev h =>
    obtain ⟨hgood, hmode, hpar⟩ := h.good hreceiver hev
    exact ⟨⟨rfl, hpar, rfl, hmode, rfl, rfl, rfl, rfl, rfl⟩, hsender, hgood⟩

/-! ### Packets under way -/

/-- What the codec calls valid of an encoded frame is its chunk, whatever `MAX_CHUNK` is (R128). -/
theorem chunkOf_encodeFrame {maxChunk : Option Nat} {c : Bytes}
    (h : (decodeFrame maxChunk (encodeFrame c)).valid = true) : chunkOf maxChunk (encodeFrame c) = c := by
  cases hlong : tooLong maxChunk ((stuff c).length + 6) with
  | true =>
    have hlen : (encodeFrame c).length = (stuff c).length + 6 := frameBytes_length _ _ _
    have hmin : 6 ≤ (encodeFrame c).length := by omega
    rw [decodeFrame_of_tooLong hmin (hlen ▸ hlong)] at h
    cases h
  | false =>
    rw [chunkOf, encodeFrame, decodeFrame_frameBytes _ hlong, if_pos rfl]
    exact unstuff_stuff c

theorem packetIntact_of_packetMessage {maxChunk : Option Nat} {n : Nat} {chunk : List Bytes} {m : Message}
    (h : packetMessage n chunk m) : packetIntact maxChunk n chunk m = true := by
  cases m with
  | data idx last frame =>
    obtain ⟨c, hc, rfl, rfl⟩ := h
    cases hvalid : (decodeFrame maxChunk (encodeFrame c)).valid with
    | true => simp [packetIntact, hc, chunkOf_encodeFrame hvalid]
    | false => simp [packetIntact, hc, hvalid]
  | hs n w => exact h.elim
  | ctrl kind num => exact h.elim
  | sink b => exact h.elim

theorem packetIntact_data_iff {maxChunk : Option Nat} {n : Nat} {chunk : List Bytes} {idx : U16} {last : Bool}
    {frame : Bytes} : packetIntact maxChunk n chunk (.data idx last frame) = true ↔
      ∃ c, chunk[idx.toNat]? = some c ∧ last = decide (idx.toNat + 1 = n) ∧
        ((decodeFrame maxChunk frame).valid = true → chunkOf maxChunk frame = c) := by
  rw [packetIntact]
  cases hc : chunk[idx.toNat]? with
  | none => simp
  | some c =>
    cases hvalid : (decodeFrame maxChunk frame).valid <;> simp

/-- A packet whose frame is altered so that the codec sees it is intact still (R129, R250). -/
theorem packetIntact_corrupt {maxChunk : Option Nat} {n : Nat} {chunk : List Bytes} {idx : U16} {last : Bool}
    {frame frame' : Bytes} (h : packetIntact maxChunk n chunk (.data idx last frame) = true)
    (hbad : (decodeFrame maxChunk frame').valid = false) :
    packetIntact maxChunk n chunk (.data idx last frame') = true := by
  obtain ⟨c, hc, hlast, -⟩ := packetIntact_data_iff.1 h
  exact packetIntact_data_iff.2 ⟨c, hc, hlast, fun hvalid => absurd hbad (by simp [hvalid])⟩

theorem sinkBytes_of_packetMessage {n : Nat} {chunk : List Bytes} {m : Message} (h : packetMessage n chunk m) :
    sinkBytes m = none := by
  cases m with
  | data idx last frame => rfl
  | hs n w => rfl
  | ctrl kind num => rfl
  | sink b => exact h.elim

/-- A sender hands nothing to the sink (R247). -/
theorem filterMap_sinkBytes_of_packets {n : Nat} {chunk : List Bytes} {out : List Message}
    (h : ∀ m ∈ out, packetMessage n chunk m) : out.filterMap sinkBytes = [] :=
  List.filterMap_eq_nil_iff.2 fun m hm => sinkBytes_of_packetMessage (h m hm)

/-! ### What is stored -/

theorem mem_of_readEntry {rb : EntryArray} {j : Nat} {c : Bytes} (h : readEntry rb j = some c) : (j, c) ∈ rb := by
  induction rb with
  | nil => cases h
  | cons y r ih =>
    obtain ⟨k, d⟩ := y
    rw [readEntry, List.lookup_cons] at h
    split at h
    case h_1 heq =>
      rw [beq_iff_eq.1 heq, ← Option.some.inj h]
      exact List.mem_cons_self
    case h_2 => exact List.mem_cons_of_mem _ (ih h)

theorem storedIntact_storeIfAbsent {chunk : List Bytes} {rb : EntryArray} (h : storedIntact chunk rb) {i : Nat} {c : Bytes}
    (hc : chunk[i]? = some c) : storedIntact chunk (storeIfAbsent rb i c) := by
  intro e he
  rcases mem_of_mem_storeIfAbsent he with rfl | hold
  · exact hc
  · exact h e hold

theorem storedIntact_storedRb {chunk : List Bytes} {rb : EntryArray} (h : storedIntact chunk rb) {i : Nat} {c : Bytes}
    (hc : chunk[i]? = some c) : storedIntact chunk (storedRb rb i c) := by
  intro e he
  rcases mem_of_mem_storedRb he with rfl | hold
  · exact hc
  · exact h e hold

/-- A complete buffer of the sender's own chunks, joined, is the original stream (R73, R190, R226). -/
theorem joined_of_storedIntact {chunk : List Bytes} {rb : EntryArray} {n : Nat} (hlen : chunk.length = n)
    (hfull : full rb n) (h : storedIntact chunk rb) : joined rb n = chunk.flatten := by
  have hentries : (List.range n).map (fun j => (readEntry rb j).getD []) = chunk := by
    apply List.ext_getElem
    · simp [hlen]
    · intro j hj hj'
      rw [List.length_map, List.length_range] at hj
      obtain ⟨c, hc⟩ := Option.ne_none_iff_exists'.1 (hfull j hj)
      have hchunk : chunk[j]? = some c := h (j, c) (mem_of_readEntry hc)
      rw [List.getElem?_eq_getElem hj'] at hchunk
      simp [hc, Option.some.inj hchunk]
  rw [joined, hentries]

/-! ### The Stop-and-Wait session -/

/-- `SwSessionInv` with a name for each part, but for the parameters' own invariant. -/
structure SwSession (x : Session) : Prop where
  sender : Good x.sender
  receiver : Good x.receiver
  senderMode : x.sender.mode = .swTx
  receiverMode : x.receiver.mode = .swRx
  down : ∀ m ∈ x.down, packetIntact x.receiver.par.maxChunk x.sender.sws.n x.sender.sws.chunk m = true
  stored : storedIntact x.sender.sws.chunk x.receiver.swr.rb
  lastIdx : ∀ l ∈ x.receiver.swr.lastIdx, l.toNat + 1 = x.sender.sws.n
  sunk : x.sunk =
    if x.receiver.swr.st = .done ∧ x.receiver.swr.err = .none then [x.sender.sws.chunk.flatten] else []

theorem swSessionInv_iff {x : Session} :
    SwSessionInv x ↔ (ParInv x.sender.par ∧ ParInv x.receiver.par) ∧ SwSession x := by
  constructor
  · rintro ⟨hs, hr, h1, h2, h3, h4, h5, h6⟩
    obtain ⟨hps, hgs⟩ := inv_iff.1 hs
    obtain ⟨hpr, hgr⟩ := inv_iff.1 hr
    exact ⟨⟨hps, hpr⟩, hgs, hgr, h1, h2, h3, h4, h5, h6⟩
  · rintro ⟨⟨hps, hpr⟩, h⟩
    exact ⟨inv_iff.2 ⟨hps, h.sender⟩, inv_iff.2 ⟨hpr, h.receiver⟩, h.senderMode, h.receiverMode, h.down, h.stored,
      h.lastIdx, h.sunk⟩

/-- Whatever the sender sends in a session is a packet of its own stream. -/
theorem SwSession.packets {x : Session} (h : SwSession x) {ev : Event} {t : State} {out : List Message}
    (hears : Hears x.sender ev t out) (hev : inSession ev = true) {m : Message} (hm : m ∈ out) :
    packetMessage x.sender.sws.n x.sender.sws.chunk m := by
  rcases hears.swTx h.sender h.senderMode hev with ⟨-, rfl⟩ | ⟨-, hturn⟩
  · cases hm
  · exact hturn.packets h.sender.sws hm

theorem SwSession.senderMove {x : Session} (h : SwSession x) {ev : Event} {t : State} {out : List Message}
    (hears : Hears x.sender ev t out) (hev : inSession ev = true) (up : List Message) :
    SwSession { x with
      sender := t, up := up, down := x.down ++ out.filter onChannel, sunk := x.sunk ++ out.filterMap sinkBytes } := by
  obtain ⟨hgood, hmode, -⟩ := hears.good h.sender hev
  obtain ⟨⟨hn, hchunk⟩, -⟩ := hears.stream_kept h.sender hev
  have hpackets (m : Message) (hm : m ∈ out) := h.packets hears hev hm
  exact {
    sender := hgood
    receiver := h.receiver
    senderMode := hmode.trans h.senderMode
    receiverMode := h.receiverMode
    down := fun m hm => by
      dsimp only
      rw [hn, hchunk]
      rcases List.mem_append.1 hm with hold | hnew
      · exact h.down m hold
      · exact packetIntact_of_packetMessage (hpackets m (List.mem_filter.1 hnew).1)
    stored := by
      dsimp only
      rw [hchunk]
      exact h.stored
    lastIdx := by
      dsimp only
      rw [hn]
      exact h.lastIdx
    sunk := by
      dsimp only
      rw [hchunk, filterMap_sinkBytes_of_packets hpackets, List.append_nil]
      exact h.sunk }

/-- While the receiver is receiving nothing has been handed over (R247). -/
theorem SwSession.sunk_of_receiving {x : Session} (h : SwSession x) (hst : x.receiver.swr.st = .receiving) :
    x.sunk = [] := by
  rw [h.sunk, if_neg (by simp [hst])]

/-- What the receiver makes of an event keeps what it has stored, its last index and what it has handed over right. -/
theorem SwSession.receiver_facts {x : Session} (h : SwSession x) {ev : Event} {down out : List Message} {r : Swr}
    (hdown : x.down = (eventMessage ev).toList ++ down)
    (hheard : SwrHeard x.receiver.par.maxChunk x.receiver.swr ev r out) :
    storedIntact x.sender.sws.chunk r.rb ∧ (∀ l ∈ r.lastIdx, l.toNat + 1 = x.sender.sws.n) ∧
      x.sunk ++ out.filterMap sinkBytes =
        if r.st = .done ∧ r.err = .none then [x.sender.sws.chunk.flatten] else [] := by
  have hdata {idx : U16} {last : Bool} {frame : Bytes} (heq : ev = .rxData idx last frame) :=
    packetIntact_data_iff.1 (h.down (.data idx last frame) (by rw [hdown, heq]; exact List.mem_cons_self))
  have hstored {idx : U16} {last : Bool} {frame : Bytes} (heq : ev = .rxData idx last frame)
      (hvalid : (decodeFrame x.receiver.par.maxChunk frame).valid = true) :
      storedIntact x.sender.sws.chunk
        (storedRb x.receiver.swr.rb idx.toNat (chunkOf x.receiver.par.maxChunk frame)) := by
    obtain ⟨c, hc, -, hchunk⟩ := hdata heq
    rw [hchunk hvalid]
    exact storedIntact_storedRb h.stored hc
  have hlastIdx {idx : U16} {frame : Bytes} (heq : ev = .rxData idx true frame) :
      idx.toNat + 1 = x.sender.sws.n := by
    obtain ⟨-, -, hlast, -⟩ := hdata heq
    exact of_decide_eq_true hlast.symm
  cases hheard with
  | kept ev status out hout =>
    refine ⟨h.stored, h.lastIdx, ?_⟩
    rw [List.filterMap_eq_nil_iff.2 hout, List.append_nil]
    exact h.sunk
  | ended ev st err hst hst' =>
    refine ⟨h.stored, h.lastIdx, ?_⟩
    rw [h.sunk_of_receiving hst, if_neg fun hc => hst' hc.1]
    rfl
  | accepted idx frame hvalid =>
    exact ⟨hstored rfl hvalid, h.lastIdx, (List.append_nil _).trans h.sunk⟩
  | handed idx frame hst hvalid hfull =>
    have herr := h.receiver.swr.receiving_err hst
    have hn := hlastIdx rfl
    refine ⟨hstored rfl hvalid, fun l hl => Option.some.inj hl ▸ hn, ?_⟩
    rw [hn] at hfull
    rw [h.sunk_of_receiving hst, if_pos ⟨rfl, herr⟩, hn,
      ← joined_of_storedIntact h.sender.sws.chunk_length hfull (hstored rfl hvalid)]
    rfl
  | gap idx frame hst hvalid =>
    refine ⟨hstored rfl hvalid, fun l hl => Option.some.inj hl ▸ hlastIdx rfl, ?_⟩
    rw [h.sunk_of_receiving hst, if_neg fun hc => absurd hc.2 nofun]
    rfl

theorem SwSession.receiverMove {x : Session} (h : SwSession x) {ev : Event} {down out : List Message} {t : State}
    (hdown : x.down = (eventMessage ev).toList ++ down) (hears : Hears x.receiver ev t out)
    (hev : inSession ev = true) (up : List Message) :
    SwSession { x with receiver := t, down := down, up := up, sunk := x.sunk ++ out.filterMap sinkBytes } := by
  obtain ⟨hgood, hmode, hpar⟩ := hears.good h.receiver hev
  obtain ⟨hstored, hlastIdx, hsunk⟩ := h.receiver_facts hdown (hears.swRx h.receiverMode hev)
  exact {
    sender := h.sender
    receiver := hgood
    senderMode := h.senderMode
    receiverMode := hmode.trans h.receiverMode
    down := fun m hm => by
      dsimp only
      rw [hpar]
      exact h.down m (by rw [hdown]; exact List.mem_append_right _ hm)
    stored := hstored
    lastIdx := hlastIdx
    sunk := hsunk }

/-- Every fair move keeps the Stop-and-Wait session (R190). -/
theorem SwSession.move {x y : Session} (h : SwSession x) (hmove : MoveForm x y) : SwSession y := by
  cases hmove with
  | drop hdown => exact { h with down := fun m hm => h.down m (hdown ▸ List.mem_cons_of_mem _ hm) }
  | corrupt frame' hdown hbad =>
    refine { h with down := fun m hm => ?_ }
    rcases List.mem_cons.1 hm with rfl | hold
    · exact packetIntact_corrupt (h.down _ (hdown ▸ List.mem_cons_self)) hbad
    · exact h.down m (hdown ▸ List.mem_cons_of_mem _ hold)
  | sender hup hev hears => exact h.senderMove hears hev _
  | receiver hdown hev hears => exact h.receiverMove hdown hears hev _

end Sys2Proof.Machine
end

section
/-!
PROOFS. The Selective-Repeat session: what the sender takes for acknowledged is flagged at the receiver, what is stored are the
sender's own chunks, and the sink is handed the original stream or nothing (R226, R247, R250, R301).
-/

-- The proofs one after the other: side by side, those of the whole text need more memory than the check allows.
set_option Elab.async false

namespace Sys2Proof.Machine

/-! ### The invariant by name -/

/-- The sender's view of the receiver is right: the session's size, what is acknowledged, the replies under way, the end
(R226, R301). -/
structure Agrees (r : Srr) (up : List Message) (e : Srs) : Prop where
  size : 0 < e.nextSeq → r.st ≠ .awaitHs ∧ r.n = e.n ∧ r.w = e.w
  acked : ∀ k < e.nextSeq, readBit e.outst k = false → readBit r.flags k = true
  replies : e.st = .awaitReply → ∀ m ∈ up, ackFlagged r.flags m = true
  done : e.st = .done → r.st = .done

/-- `SrSessionInv` with a name for each part, but for the parameters' own invariant. -/
structure SrSession (x : Session) : Prop where
  sender : Good x.sender
  receiver : Good x.receiver
  senderMode : x.sender.mode = .srTx
  receiverMode : x.receiver.mode = .srRx
  down : ∀ m ∈ x.down, (handshakeIntact x.sender.srs.n x.sender.srs.w m ||
    packetIntact x.receiver.par.maxChunk x.sender.srs.n x.sender.srs.chunk m) = true
  handshake : x.sender.srs.st = .awaitHsAck → handshakeUnderWay x
  agrees : Agrees x.receiver.srr x.up x.sender.srs
  stored : storedIntact x.sender.srs.chunk x.receiver.srr.rb
  counts : 0 < x.receiver.srr.n → x.receiver.srr.n = x.sender.srs.n ∧
    (x.receiver.srr.rcount = x.receiver.srr.n → x.receiver.srr.st = .done)
  sunk : x.sunk = if x.receiver.srr.st = .done then [x.sender.srs.chunk.flatten] else []

theorem srSessionInv_iff {x : Session} :
    SrSessionInv x ↔ (ParInv x.sender.par ∧ ParInv x.receiver.par) ∧ SrSession x := by
  constructor
  · rintro ⟨hs, hr, h1, h2, h3, h4, h5, h6, h7, h8, h9, h10, h11⟩
    obtain ⟨hps, hgs⟩ := inv_iff.1 hs
    obtain ⟨hpr, hgr⟩ := inv_iff.1 hr
    exact ⟨⟨hps, hpr⟩, hgs, hgr, h1, h2, h3, h4, ⟨h5, h7, h8, h11⟩, h6, h9, h10⟩
  · rintro ⟨⟨hps, hpr⟩, h⟩
    exact ⟨inv_iff.2 ⟨hps, h.sender⟩, inv_iff.2 ⟨hpr, h.receiver⟩, h.senderMode, h.receiverMode, h.down, h.handshake,
      h.agrees.size, h.stored, h.agrees.acked, h.agrees.replies, h.counts, h.sunk, h.agrees.done⟩

theorem handshakeIntact_iff {n w : Nat} {m : Message} :
    handshakeIntact n w m = true ↔ ∃ a b : I32, m = .hs a b ∧ a.toInt = n ∧ b.toInt = w := by
  cases m <;> simp [handshakeIntact]

/-- The data under way from the sender are its own packets. -/
theorem SrSession.packet_of_mem {x : Session} (h : SrSession x) {idx : U16} {last : Bool} {frame : Bytes}
    (hm : .data idx last frame ∈ x.down) :
    packetIntact x.receiver.par.maxChunk x.sender.srs.n x.sender.srs.chunk (.data idx last frame) = true :=
  h.down _ hm

/-- A handshake under way from the sender is its own. -/
theorem SrSession.hs_of_mem {x : Session} (h : SrSession x) {n w : I32} (hm : .hs n w ∈ x.down) :
    n.toInt.toNat = x.sender.srs.n ∧ w.toInt.toNat = x.sender.srs.w := by
  have hintact := h.down _ hm
  rw [packetIntact, Bool.or_false] at hintact
  obtain ⟨a, b, heq, ha, hb⟩ := handshakeIntact_iff.1 hintact
  obtain ⟨rfl, rfl⟩ := Message.hs.inj heq
  omega

/-! ### The sender's moves -/

/-- A sender that awaits a reply has sent something (R202, R203). -/
theorem SrsFacts.next_pos {p : Params} {e : Srs} (h : SrsFacts p e) (hst : e.st = .awaitReply) : 0 < e.nextSeq := by
  obtain ⟨hw, hnext, hbase⟩ := h.awaitReply hst
  omega

theorem ackFlagged_ack {flags : BitArray} {num : U16} (h : ackFlagged flags (.ctrl Config.ackKind num) = true) :
    readBit flags num.toNat = true := by
  simpa [ackFlagged] using h

/-- An acknowledgement of a flagged packet keeps the sender's view right; if it ends the session, every packet is flagged, so
the receiver has ended too (R203, R206, R301). -/
theorem Agrees.afterAck {p : Params} {e : Srs} {r : Srr} {up : List Message} {num : U16}
    (h : Agrees r (.ctrl Config.ackKind num :: up) e) (hfacts : SrsFacts p e) (hr : SrrFacts r)
    (hst : e.st = .awaitReply) (hcounts : r.rcount = r.n → r.st = .done) : Agrees r up (e.afterAck num) := by
  have hreplies := h.replies hst
  have hflag := ackFlagged_ack (hreplies _ List.mem_cons_self)
  have hsize := h.size (hfacts.next_pos hst)
  have hacked : ∀ k < (e.afterAck num).nextSeq, readBit (e.afterAck num).outst k = false →
      readBit r.flags k = true := by
    intro k hk hclear
    have hout : ¬ (readBit (ackedOutst num e) k = true ∨ (e.nextSeq ≤ k ∧ k < (e.afterAck num).nextSeq)) := by
      rw [← Srs.mem_afterAck_outst, ← readBit_eq_true, hclear]
      exact Bool.false_ne_true
    rw [not_or, Bool.not_eq_true, hfacts.readBit_ackedOutst, Bool.and_eq_false_iff, decide_eq_false_iff_not,
      not_not] at hout
    obtain ⟨hold | rfl, hnew⟩ := hout
    · exact h.acked k (by omega) hold
    · exact hflag
  refine ⟨fun _ => hsize, hacked, fun _ m hm => hreplies m (List.mem_cons_of_mem _ hm), fun hdone => hcounts ?_⟩
  have hfacts' := (hfacts.afterAck hst num).1
  have hbase := hfacts'.done hdone
  have hnext := hfacts'.base_le
  have hn : (e.afterAck num).n = e.n := rfl
  obtain ⟨-, hrn, -⟩ := hsize
  refine hr.counted.all_flags_iff.1 fun k hk => hacked k (by omega) ?_
  rw [← Bool.not_eq_true, readBit_eq_true]
  intro hmem
  have := hfacts'.outst_mem k hmem
  omega

/-- Before the handshake reply there is at most that reply under way to the sender (R201, R217). -/
theorem SrSession.up_of_awaitHsAck {x : Session} (h : SrSession x) (hst : x.sender.srs.st = .awaitHsAck) :
    x.up = [] ∨ (x.up = [.ctrl Config.ackKind 0] ∧ x.receiver.srr.st ≠ .awaitHs ∧
      x.receiver.srr.n = x.sender.srs.n ∧ x.receiver.srr.w = x.sender.srs.w) := by
  have hunder := h.handshake hst
  unfold handshakeUnderWay at hunder
  split at hunder
  · exact hunder
  · exact .inl hunder.2.1

theorem SrSession.sender_agrees {x : Session} (h : SrSession x) {ev : Event} {up out : List Message} {e : Srs}
    (hup : x.up = (eventMessage ev).toList ++ up) (hheard : SrsHeard x.sender.par x.sender.srs ev e out) :
    Agrees x.receiver.srr up e := by
  have hfacts := h.sender.srs
  have hmem (m : Message) (hm : m ∈ up) : m ∈ x.up := by
    rw [hup]
    exact List.mem_append_right _ hm
  cases hheard with
  | kept ev hnot => exact { h.agrees with replies := fun hst m hm => h.agrees.replies hst m (hmem m hm) }
  | steady ev hturn hsteady =>
    obtain ⟨-, -, ⟨hn, hw, -⟩, -⟩ := hturn.facts hfacts
    obtain ⟨hnext, houtst, hst⟩ := hsteady
    refine ⟨?_, ?_, fun hreply m hm => ?_, fun hdone => ?_⟩
    · rw [hnext, hn, hw]
      exact h.agrees.size
    · rw [hnext, houtst]
      exact h.agrees.acked
    · rcases hst with ⟨hst, -⟩ | hst | hst
      · exact h.agrees.replies hst m (hmem m hm)
      · exact absurd (hst.symm.trans hreply) nofun
      · exact absurd (hst.symm.trans hreply) nofun
    · rcases hst with ⟨-, hst⟩ | hst | hst <;> exact absurd (hst.symm.trans hdone) nofun
  | opened num hst =>
    rcases h.up_of_awaitHsAck hst with hnil | ⟨hreply, hsize⟩
    · rw [hnil] at hup
      cases hup
    · rw [hreply] at hup
      obtain rfl : [] = up := (List.cons.inj hup).2
      refine ⟨fun _ => hsize, fun k hk hclear => ?_, fun _ => nofun, nofun⟩
      rw [Srs.opened, readBit_addRange] at hclear
      have hlt : k < min x.sender.srs.n x.sender.srs.w := hk
      simp [readBit] at hclear
      omega
  | acked num hst =>
    have hpos := hfacts.next_pos hst
    obtain ⟨-, hrn, -⟩ := h.agrees.size hpos
    have hn := hfacts.next_le_n
    have hagrees := h.agrees
    rw [hup] at hagrees
    exact hagrees.afterAck hfacts h.receiver.srr hst (h.counts (by omega)).2

/-- A sender that still awaits the handshake reply has consumed no message, and sent none (R201). -/
theorem SrSession.sender_handshake {x : Session} (h : SrSession x) {ev : Event} {up out : List Message} {e : Srs}
    (hup : x.up = (eventMessage ev).toList ++ up) (hheard : SrsHeard x.sender.par x.sender.srs ev e out)
    (hst : e.st = .awaitHsAck) : x.sender.srs = e ∧ up = x.up ∧ out = [] := by
  cases hheard with
  | kept ev hnot =>
    refine ⟨rfl, ?_, rfl⟩
    cases hmessage : eventMessage ev with
    | none =>
      rw [hmessage] at hup
      exact hup.symm
    | some m =>
      rw [hmessage] at hup
      rcases h.up_of_awaitHsAck hst with hnil | ⟨hreply, -⟩
      · rw [hnil] at hup
        cases hup
      · rw [hreply] at hup
        obtain rfl : Message.ctrl Config.ackKind 0 = m := (List.cons.inj hup).1
        cases ev <;> cases hmessage
        exact absurd rfl (hnot hst 0)
  | opened num => cases hst
  | acked num =>
    change (if slidBase num x.sender.srs = x.sender.srs.n then SrsSt.done else .awaitReply) = .awaitHsAck at hst
    split at hst <;> cases hst
  | steady ev hturn hsteady =>
    rcases hsteady.st with ⟨-, hst'⟩ | hst' | hst' <;> exact absurd (hst'.symm.trans hst) nofun

theorem SrSession.packets {x : Session} (h : SrSession x) {ev : Event} {e : Srs} {out : List Message}
    (hheard : SrsHeard x.sender.par x.sender.srs ev e out) {m : Message} (hm : m ∈ out) :
    packetMessage x.sender.srs.n x.sender.srs.chunk m := by
  rcases hheard.turn with hturn | ⟨-, rfl⟩
  · exact hturn.packets h.sender.srs hm
  · cases hm

theorem SrSession.senderMove {x : Session} (h : SrSession x) {ev : Event} {t : State} {up out : List Message}
    (hup : x.up = (eventMessage ev).toList ++ up) (hears : Hears x.sender ev t out) (hev : inSession ev = true) :
    SrSession { x with
      sender := t, up := up, down := x.down ++ out.filter onChannel, sunk := x.sunk ++ out.filterMap sinkBytes } := by
  obtain ⟨hgood, hmode, -⟩ := hears.good h.sender hev
  obtain ⟨-, hn, hw, hchunk⟩ := hears.stream_kept h.sender hev
  have hheard := hears.srTx h.sender h.senderMode hev
  have hpackets (m : Message) (hm : m ∈ out) := h.packets hheard hm
  exact {
    sender := hgood
    receiver := h.receiver
    senderMode := hmode.trans h.senderMode
    receiverMode := h.receiverMode
    down := fun m hm => by
      dsimp only
      rw [hn, hw, hchunk]
      rcases List.mem_append.1 hm with hold | hnew
      · exact h.down m hold
      · rw [packetIntact_of_packetMessage (hpackets m (List.mem_filter.1 hnew).1), Bool.or_true]
    handshake := fun hst => by
      obtain ⟨heq, rfl, rfl⟩ := h.sender_handshake hup hheard hst
      have hunder := h.handshake (heq ▸ hst)
      simpa only [handshakeUnderWay, ← heq, List.filter_nil, List.append_nil] using hunder
    agrees := h.sender_agrees hup hheard
    stored := by
      dsimp only
      rw [hchunk]
      exact h.stored
    counts := by
      dsimp only
      rw [hn]
      exact h.counts
    sunk := by
      dsimp only
      rw [hchunk, filterMap_sinkBytes_of_packets hpackets, List.append_nil]
      exact h.sunk }

/-! ### The receiver's moves -/

theorem ackFlagged_mono {flags flags' : BitArray} (hflags : ∀ k, readBit flags k = true → readBit flags' k = true)
    {m : Message} (h : ackFlagged flags m = true) : ackFlagged flags' m = true := by
  cases m with
  | ctrl kind num =>
    rw [ackFlagged, Bool.or_eq_true] at h ⊢
    exact h.imp_right (hflags _)
  | hs n w => rfl
  | data idx last frame => rfl
  | sink b => rfl

/-- The sender's view stays right while the receiver flags more packets and acknowledges flagged ones alone. -/
theorem Agrees.mono {r r' : Srr} {up more : List Message} {e : Srs} (h : Agrees r up e)
    (hsize : r.st ≠ .awaitHs → r'.st ≠ .awaitHs) (hn : r'.n = r.n) (hw : r'.w = r.w)
    (hflags : ∀ k, readBit r.flags k = true → readBit r'.flags k = true)
    (hmore : ∀ m ∈ more, ackFlagged r'.flags m = true) (hdone : r.st = .done → r'.st = .done) :
    Agrees r' (up ++ more) e where
  size hpos := by
    obtain ⟨hst, hrn, hrw⟩ := h.size hpos
    exact ⟨hsize hst, hn.trans hrn, hw.trans hrw⟩
  acked k hk hclear := hflags k (h.acked k hk hclear)
  replies hst m hm := by
    rcases List.mem_append.1 hm with hold | hnew
    · exact ackFlagged_mono hflags (h.replies hst m hold)
    · exact hmore m hnew
  done hst := hdone (h.done hst)

theorem SrrSt.not_running_done {x : SrrSt} (h : x.running = true) : x ≠ .done := by
  rintro rfl
  cases h

theorem SrrHeard.agrees {maxChunk : Option Nat} {p : Params} {r r' : Srr} {ev : Event} {up out : List Message} {e : Srs}
    (hheard : SrrHeard maxChunk r ev r' out) (h : Agrees r up e) (hfacts : SrsFacts p e) :
    Agrees r' (up ++ out.filter onChannel) e := by
  cases hheard with
  | kept ev out hsteady hst hout =>
    refine h.mono (by rw [hst]; exact id) hsteady.n hsteady.w (by rw [hsteady.flags]; exact fun _ => id) (fun m hm => ?_)
      (by rw [hst]; exact id)
    obtain ⟨-, num, rfl⟩ := hout m (List.mem_filter.1 hm).1
    rfl
  | ended ev st err hrun hst =>
    refine h.mono (fun _ => ?_) rfl rfl (fun _ => id) nofun fun hdone => absurd hdone (SrrSt.not_running_done hrun)
    rcases hst with rfl | rfl <;> nofun
  | opened n w hst hlegal =>
    have hzero : ¬ 0 < e.nextSeq := fun hpos => (h.size hpos).1 hst
    refine ⟨fun hpos => absurd hpos hzero, fun k hk => absurd (Nat.lt_of_le_of_lt (Nat.zero_le k) hk) hzero,
      fun hreply => absurd (hfacts.next_pos hreply) hzero, fun hdone => ?_⟩
    exact absurd (hst.symm.trans (h.done hdone)) nofun
  | first idx last frame hst hidx hfirst hvalid =>
    have hflags (k : Nat) : readBit (r.afterFirst idx.toNat last (chunkOf maxChunk frame)).flags k =
        (decide (k = idx.toNat) || readBit r.flags k) := readBit_setBit _ _ _
    refine h.mono (fun _ => ?_) rfl rfl (fun k hk => ?_) (fun m hm => ?_) fun hdone => absurd (hst.symm.trans hdone) nofun
    · change (if r.rcount + 1 = r.n then SrrSt.done else .receiving) ≠ .awaitHs
      split <;> nofun
    · rw [hflags, hk, Bool.or_true]
    · obtain ⟨hmem, hchannel⟩ := List.mem_filter.1 hm
      rcases List.mem_cons.1 hmem with rfl | hsink
      · rw [ackFlagged, hflags]
        simp
      · split_ifs at hsink
        · rw [List.mem_singleton.1 hsink] at hchannel
          cases hchannel
        · cases hsink
  | dup idx last frame hst hdup =>
    refine h.mono id rfl rfl (fun _ => id) (fun m hm => ?_) id
    rw [List.mem_singleton.1 (List.mem_filter.1 hm).1, ackFlagged]
    rw [hdup, Bool.or_true]

/-- What the receiver makes of an event keeps what it has stored, counted and handed over right. -/
theorem SrSession.receiver_facts {x : Session} (h : SrSession x) {ev : Event} {down out : List Message} {r : Srr}
    (hdown : x.down = (eventMessage ev).toList ++ down)
    (hheard : SrrHeard x.receiver.par.maxChunk x.receiver.srr ev r out) :
    storedIntact x.sender.srs.chunk r.rb ∧ (0 < r.n → r.n = x.sender.srs.n ∧ (r.rcount = r.n → r.st = .done)) ∧
      x.sunk ++ out.filterMap sinkBytes = if r.st = .done then [x.sender.srs.chunk.flatten] else [] := by
  have hfacts := h.receiver.srr
  have hsunk (hrun : x.receiver.srr.st.running = true) : x.sunk = [] := by
    rw [h.sunk, if_neg (SrrSt.not_running_done hrun)]
  cases hheard with
  | kept ev out hsteady hst hout =>
    refine ⟨hsteady.rb ▸ h.stored, ?_, ?_⟩
    · rw [hsteady.n, hsteady.rcount, hst]
      exact h.counts
    · have hnone : out.filterMap sinkBytes = [] := List.filterMap_eq_nil_iff.2 fun m hm => by
        obtain ⟨-, num, rfl⟩ := hout m hm
        rfl
      rw [hnone, List.append_nil, hst]
      exact h.sunk
  | ended ev st err hrun hst =>
    have hnot : st ≠ .done := by rcases hst with rfl | rfl <;> nofun
    refine ⟨h.stored, fun hpos => ⟨(h.counts hpos).1, fun hall => ?_⟩, ?_⟩
    · exact absurd ((h.counts hpos).2 hall) (SrrSt.not_running_done hrun)
    · rw [hsunk hrun, if_neg hnot]
      rfl
  | opened n w hst hlegal =>
    have hmem : Message.hs n w ∈ x.down := hdown ▸ List.mem_cons_self
    refine ⟨nofun, fun hpos => ⟨(h.hs_of_mem hmem).1, fun hall => ?_⟩, ?_⟩
    · exact absurd (show 0 = (x.receiver.srr.opened n w).n from hall) hpos.ne
    · rw [hsunk (by rw [hst]; rfl)]
      rfl
  | first idx last frame hst hidx hfirst hvalid =>
    have hmem : Message.data idx last frame ∈ x.down := hdown ▸ List.mem_cons_self
    obtain ⟨c, hc, -, hchunk⟩ := packetIntact_data_iff.1 (h.packet_of_mem hmem)
    have hn := (h.counts (Nat.lt_of_le_of_lt (Nat.zero_le _) hidx)).1
    have hstored := storedIntact_storeIfAbsent h.stored hc
    have hcounted := counted_marked hfacts.counted hidx hfirst c
    rw [hchunk hvalid, hsunk (by rw [hst]; rfl)]
    refine ⟨hstored, fun _ => ⟨hn, fun hall => if_pos hall⟩, ?_⟩
    change (Srr.firstSends idx c x.receiver.srr).filterMap sinkBytes =
      if (if x.receiver.srr.rcount + 1 = x.receiver.srr.n then SrrSt.done else .receiving) = .done then _ else _
    by_cases hall : x.receiver.srr.rcount + 1 = x.receiver.srr.n
    · have hjoined := joined_of_storedIntact (h.sender.srs.chunk_length.trans hn.symm)
        (hcounted.full_of_all hall) hstored
      rw [Srr.firstSends, if_pos hall, if_pos (if_pos hall), ← hjoined]
      rfl
    · rw [Srr.firstSends, if_neg hall, if_neg (by rw [if_neg hall]; nofun)]
      rfl
  | dup idx last frame hst hdup =>
    exact ⟨h.stored, h.counts, (List.append_nil _).trans h.sunk⟩

/-- Without data the receiver says nothing but its reply to a handshake (R217, R258). -/
theorem SrrHeard.of_no_data {maxChunk : Option Nat} {r r' : Srr} {ev : Event} {out : List Message}
    (h : SrrHeard maxChunk r ev r' out) (hev : ∀ idx last frame, ev ≠ .rxData idx last frame) :
    (out = [] ∧ r'.n = r.n ∧ r'.w = r.w ∧ (r.st ≠ .awaitHs → r'.st ≠ .awaitHs)) ∨
      ∃ n w, ev = .rxHs n w ∧ r' = r.opened n w ∧ out = [.ctrl Config.ackKind 0] := by
  cases h with
  | kept ev out hsteady hst hout =>
    refine .inl ⟨List.eq_nil_iff_forall_not_mem.2 fun m hm => ?_, hsteady.n, hsteady.w, hst ▸ id⟩
    obtain ⟨⟨idx, last, frame, heq⟩, -⟩ := hout m hm
    exact hev idx last frame heq
  | ended ev st err hrun hst =>
    refine .inl ⟨rfl, rfl, rfl, fun _ => ?_⟩
    rcases hst with rfl | rfl <;> nofun
  | opened n w => exact .inr ⟨n, w, rfl, rfl, rfl⟩
  | first idx last frame => exact absurd rfl (hev idx last frame)
  | dup idx last frame => exact absurd rfl (hev idx last frame)

/-- While the sender awaits the handshake reply, the handshake is under way, or the receiver has taken it and the reply is, or
the session is stuck with neither (R201, R217). -/
theorem SrSession.receiver_handshake {x : Session} (h : SrSession x) {ev : Event} {down out : List Message} {t : State}
    (hdown : x.down = (eventMessage ev).toList ++ down)
    (hheard : SrrHeard x.receiver.par.maxChunk x.receiver.srr ev t.srr out) (sunk : List Bytes)
    (hst : x.sender.srs.st = .awaitHsAck) :
    handshakeUnderWay { x with receiver := t, down := down, up := x.up ++ out.filter onChannel, sunk := sunk } := by
  have hunder := h.handshake hst
  unfold handshakeUnderWay at hunder ⊢
  dsimp only at hunder ⊢
  cases hmessage : eventMessage ev with
  | none =>
    rw [hmessage] at hdown
    obtain rfl : x.down = down := hdown
    have hquiet := hheard.of_no_data fun idx last frame heq => by
      rw [heq] at hmessage
      cases hmessage
    rcases hquiet with ⟨rfl, hn, hw, hawait⟩ | ⟨n, w, heq, -⟩
    · rw [List.filter_nil, List.append_nil, hn, hw]
      split_ifs at hunder ⊢
      · exact hunder.imp_right fun ⟨hup, hst, hsize⟩ => ⟨hup, hawait hst, hsize⟩
      · exact hunder
    · rw [heq] at hmessage
      cases hmessage
  | some m =>
    rw [hmessage] at hdown
    have hcons : x.down = m :: down := hdown
    rw [if_neg (by simp [hcons])] at hunder
    obtain ⟨hlen, hup, hintact⟩ := hunder
    obtain rfl : down = [] := by simpa [hcons] using hlen
    obtain ⟨a, b, rfl, ha, hb⟩ := handshakeIntact_iff.1 (hintact m (hcons ▸ List.mem_cons_self))
    rw [if_pos rfl, hup, List.nil_append]
    obtain rfl : ev = .rxHs a b := by cases ev <;> cases hmessage; rfl
    rcases hheard.of_no_data nofun with ⟨rfl, -⟩ | ⟨n, w, heq, hopened, rfl⟩
    · exact .inl rfl
    · cases heq
      obtain ⟨hn, hw⟩ := h.hs_of_mem (hcons ▸ List.mem_cons_self)
      rw [hopened]
      exact .inr ⟨rfl, nofun, hn, hw⟩

theorem SrSession.receiverMove {x : Session} (h : SrSession x) {ev : Event} {down out : List Message} {t : State}
    (hdown : x.down = (eventMessage ev).toList ++ down) (hears : Hears x.receiver ev t out)
    (hev : inSession ev = true) : SrSession { x with
      receiver := t, down := down, up := x.up ++ out.filter onChannel, sunk := x.sunk ++ out.filterMap sinkBytes } := by
  obtain ⟨hgood, hmode, hpar⟩ := hears.good h.receiver hev
  have hheard := hears.srRx h.receiver h.receiverMode hev
  obtain ⟨hstored, hcounts, hsunk⟩ := h.receiver_facts hdown hheard
  exact {
    sender := h.sender
    receiver := hgood
    senderMode := h.senderMode
    receiverMode := hmode.trans h.receiverMode
    down := fun m hm => by
      dsimp only
      rw [hpar]
      exact h.down m (by rw [hdown]; exact List.mem_append_right _ hm)
    handshake := h.receiver_handshake hdown hheard _
    agrees := hheard.agrees h.agrees h.sender.srs
    stored := hstored
    counts := hcounts
    sunk := hsunk }

/-- Every fair move keeps the Selective-Repeat session (R226, R301). -/
theorem SrSession.move {x y : Session} (h : SrSession x) (hmove : MoveForm x y) : SrSession y := by
  have hhandshake {m : Message} {rest : List Message} (hdown : x.down = m :: rest)
      (hst : x.sender.srs.st = .awaitHsAck) : handshakeIntact x.sender.srs.n x.sender.srs.w m = true := by
    have hunder := h.handshake hst
    rw [handshakeUnderWay, if_neg (by simp [hdown])] at hunder
    exact hunder.2.2 m (hdown ▸ List.mem_cons_self)
  cases hmove with
  | drop hdown =>
    exact { h with
      down := fun m hm => h.down m (hdown ▸ List.mem_cons_of_mem _ hm)
      handshake := fun hst => absurd (hhandshake hdown hst) Bool.false_ne_true }
  | @corrupt idx last frame rest frame' hdown hbad =>
    have hintact := h.packet_of_mem (hdown ▸ List.mem_cons_self)
    refine { h with
      down := fun m hm => ?_
      handshake := fun hst => absurd (hhandshake hdown hst) Bool.false_ne_true }
    rcases List.mem_cons.1 hm with rfl | hold
    · exact packetIntact_corrupt hintact hbad
    · exact h.down m (hdown ▸ List.mem_cons_of_mem _ hold)
  | sender hup hev hears => exact h.senderMove hup hears hev
  | receiver hdown hev hears => exact h.receiverMove hdown hears hev

end Sys2Proof.Machine
end

section
/-!
PROOFS. The starts of a session, every run of fair moves, and the obligations about sessions (R16, R17, R190, R226, R250,
R293, R301).
-/

-- The proofs one after the other: side by side, those of the whole text need more memory than the check allows.
set_option Elab.async false

namespace Sys2Proof.Machine

/-! ### Runs -/

theorem moves_cons_eq_some {m : Move} {ms : List Move} {x z : Session} :
    moves (m :: ms) x = some z ↔ ∃ y, move m x = some y ∧ moves ms y = some z := by
  rw [moves]
  cases move m x <;> simp

/-- The first two moves of a run, and the rest of it. -/
theorem moves_two {m k : Move} {ms : List Move} {x z : Session} (h : moves (m :: k :: ms) x = some z) :
    ∃ y, moves [m, k] x = some y ∧ moves ms y = some z := by
  obtain ⟨y₁, hm, hrest⟩ := moves_cons_eq_some.1 h
  obtain ⟨y, hk, hms⟩ := moves_cons_eq_some.1 hrest
  exact ⟨y, moves_cons_eq_some.2 ⟨y₁, hm, moves_cons_eq_some.2 ⟨y, hk, rfl⟩⟩, hms⟩

/-- What fair moves keep of sessions of good blocks holds after every run of them. -/
theorem moves_keep {P : Session → Prop} (hgood : ∀ x, P x → Good x.sender ∧ Good x.receiver)
    (hstep : ∀ x y, P x → MoveForm x y → P y) {ms : List Move} {x z : Session}
    (hfair : ∀ m ∈ ms, fairMove x.receiver.par.maxChunk m) (h : moves ms x = some z) (hx : P x) :
    P z ∧ x.Kept z := by
  induction ms generalizing x with
  | nil =>
    cases h
    exact ⟨hx, .refl _⟩
  | cons m ms ih =>
    obtain ⟨y, hmove, hrest⟩ := moves_cons_eq_some.1 h
    have hform := moveForm (hfair m List.mem_cons_self) hmove
    obtain ⟨hsender, hreceiver⟩ := hgood x hx
    have hkept := (hform.kept hsender hreceiver).1
    have hfair' : ∀ k ∈ ms, fairMove y.receiver.par.maxChunk k := by
      rw [hkept.receiverPar]
      exact fun k hk => hfair k (List.mem_cons_of_mem _ hk)
    obtain ⟨hz, hkept'⟩ := ih hfair' hrest (hstep x y hx hform)
    exact ⟨hz, hkept.trans hkept'⟩

/-! ### The starts -/

theorem good_initial (p : Params) : Good { State.reset with par := p } := good_resetOp { State.reset with par := p }

theorem Good.clearTx {s : State} (h : Good s) : Good { s with tx := [] } := ⟨h.role, h.sws, h.swr, h.srs, h.srr⟩

/-- A start given to the receiver, from what the request does there. -/
theorem start_receiver {x y : Session} {r : StartReq} {u : State} (h : move (.toReceiver (.start r)) x = some y)
    (hstart : startOp r (atRest x.receiver) = .ok u) : y = { x with
      receiver := { u with tx := [] }, up := x.up ++ u.tx.filter onChannel
      sunk := x.sunk ++ u.tx.filterMap sinkBytes } := by
  obtain ⟨t, out, hstep, rfl⟩ := receiverMove_eq_some h
  obtain ⟨-, v, hv, rfl, rfl⟩ := hears_of_start hstep
  obtain rfl := Except.ok.inj (hstart.symm.trans hv)
  rfl

/-- A start given to the sender is well formed. -/
theorem start_sender_wellFormed {x y : Session} {r : StartReq} (h : move (.toSender (.start r)) x = some y) :
    r.wellFormed x.sender.par.maxChunk = true := by
  obtain ⟨t, out, hstep, -⟩ := senderMove_eq_some h
  exact (hears_of_start hstep).1

theorem start_sender {x y : Session} {r : StartReq} {u : State} (h : move (.toSender (.start r)) x = some y)
    (hstart : startOp r (atRest x.sender) = .ok u) : y = { x with
      sender := { u with tx := [] }, down := x.down ++ u.tx.filter onChannel
      sunk := x.sunk ++ u.tx.filterMap sinkBytes } := by
  obtain ⟨t, out, hstep, rfl⟩ := senderMove_eq_some h
  obtain ⟨-, v, hv, rfl, rfl⟩ := hears_of_start hstep
  obtain rfl := Except.ok.inj (hstart.symm.trans hv)
  rfl

/-- The two starts set up a Stop-and-Wait session: of the stream given, or of none if the start was malformed (R171, R181). -/
theorem swSession_of_starts {p q : Params} {n : I32} {chunks : List Bytes} {x : Session}
    (h : moves [.toReceiver (.start .swRx), .toSender (.start (.swTx n chunks))] (Session.start p q) = some x) :
    SwSession x ∧ x.sender.par = p ∧ x.receiver.par = q ∧
      (x.sender.sws.chunk = chunks ∨ x.sender.sws.n = 0) := by
  obtain ⟨y, hreceiver, hrest⟩ := moves_cons_eq_some.1 h
  obtain ⟨z, hsender, hend⟩ := moves_cons_eq_some.1 hrest
  obtain rfl : z = x := Option.some.inj hend
  obtain rfl := start_receiver hreceiver (congrArg Except.ok (swrStart_of_none rfl))
  have hgoodR := (Started.swr.good rfl (good_initial q).atRest).clearTx
  have hfit := start_sender_wellFormed hsender
  cases hn : legalN n with
  | true =>
    obtain ⟨c, hc⟩ := exists_first_chunk hn hfit
    obtain rfl := start_sender hsender (swsStart_of_legal rfl hn hc)
    have hgoodS := ((Started.sws n c chunks hn hfit hc).good rfl (good_initial p).atRest).clearTx
    refine ⟨⟨hgoodS, hgoodR, rfl, rfl, fun m hm => ?_, nofun, nofun, rfl⟩, rfl, rfl, .inl rfl⟩
    rw [List.mem_singleton.1 hm]
    exact packetIntact_of_packetMessage (packetMessage_dataMessage (by omega) hc)
  | false =>
    obtain rfl := start_sender hsender (swsStart_of_illegal rfl hn chunks)
    have hgoodS := (Started.swsMalformed.good rfl (good_initial p).atRest).clearTx
    exact ⟨⟨hgoodS, hgoodR, rfl, rfl, nofun, nofun, nofun, rfl⟩, rfl, rfl, .inr rfl⟩

/-- The two starts set up a Selective-Repeat session: of the stream given, or of none if the start was malformed (R201,
R216). -/
theorem srSession_of_starts {p q : Params} {n w : I32} {chunks : List Bytes} {x : Session}
    (h : moves [.toReceiver (.start .srRx), .toSender (.start (.srTx n w chunks))] (Session.start p q) = some x) :
    SrSession x ∧ x.sender.par = p ∧ x.receiver.par = q ∧ x.receiver.srr.st ≠ .done ∧
      (x.sender.srs.chunk = chunks ∨ x.sender.srs.n = 0) := by
  obtain ⟨y, hreceiver, hrest⟩ := moves_cons_eq_some.1 h
  obtain ⟨z, hsender, hend⟩ := moves_cons_eq_some.1 hrest
  obtain rfl : z = x := Option.some.inj hend
  obtain rfl := start_receiver hreceiver (congrArg Except.ok (srrStart_of_none rfl))
  have hgoodR := (Started.srr.good rfl (good_initial q).atRest).clearTx
  have hfit := start_sender_wellFormed hsender
  cases hlegal : legalN n && legalW w with
  | true =>
    obtain rfl := start_sender hsender (congrArg Except.ok (srsStart_of_legal rfl hlegal chunks))
    have hgoodS := ((Started.srs n w chunks hlegal hfit).good rfl (good_initial p).atRest).clearTx
    have hhs : handshakeIntact n.toInt.toNat w.toInt.toNat (.hs n w) = true := by
      obtain ⟨⟨hlow, -⟩, hw⟩ := legalNW_iff.1 hlegal
      exact handshakeIntact_iff.2 ⟨n, w, rfl, by omega, by omega⟩
    refine ⟨⟨hgoodS, hgoodR, rfl, rfl, fun m hm => ?_, fun _ => ⟨rfl, rfl, fun m hm => ?_⟩,
      ⟨nofun, nofun, nofun, nofun⟩, nofun, nofun, rfl⟩, rfl, rfl, nofun, .inl rfl⟩
    · rw [List.mem_singleton.1 hm]
      exact (congrArg (· || _) hhs).trans (Bool.true_or _)
    · rw [List.mem_singleton.1 hm]
      exact hhs
  | false =>
    obtain rfl := start_sender hsender (congrArg Except.ok (srsStart_of_illegal rfl hlegal chunks))
    have hgoodS := (Started.srsMalformed.good rfl (good_initial p).atRest).clearTx
    exact ⟨⟨hgoodS, hgoodR, rfl, rfl, nofun, nofun, ⟨nofun, nofun, nofun, nofun⟩, nofun, nofun, rfl⟩, rfl, rfl, nofun,
      .inr rfl⟩

/-! ### The obligations -/

/-- Settles O60: the starts by `swSession_of_starts` and `srSession_of_starts`, a move by its form. -/
theorem fairMovesKeepSessionInvariants : Obligations.FairMovesKeepSessionInvariants := by
  intro x y m p q n w chunks
  refine ⟨fun hfair hmove => ⟨fun h => ?sw, fun h => ?sr⟩, fun hp hq => ⟨fun h => ?swStart, fun h => ?srStart⟩⟩
  case sw =>
    obtain ⟨⟨hp, hq⟩, hsession⟩ := swSessionInv_iff.1 h
    have hform := moveForm hfair hmove
    have hkept := (hform.kept hsession.sender hsession.receiver).1
    exact swSessionInv_iff.2 ⟨⟨hkept.senderPar ▸ hp, hkept.receiverPar ▸ hq⟩, hsession.move hform⟩
  case sr =>
    obtain ⟨⟨hp, hq⟩, hsession⟩ := srSessionInv_iff.1 h
    have hform := moveForm hfair hmove
    have hkept := (hform.kept hsession.sender hsession.receiver).1
    exact srSessionInv_iff.2 ⟨⟨hkept.senderPar ▸ hp, hkept.receiverPar ▸ hq⟩, hsession.move hform⟩
  case swStart =>
    obtain ⟨hsession, rfl, rfl, -⟩ := swSession_of_starts h
    exact swSessionInv_iff.2 ⟨⟨hp, hq⟩, hsession⟩
  case srStart =>
    obtain ⟨hsession, rfl, rfl, -⟩ := srSession_of_starts h
    exact srSessionInv_iff.2 ⟨⟨hp, hq⟩, hsession⟩

/-- Settles O58: the session is kept from its starts on, and a receiver that is done has seen a last index of the stream. -/
theorem stopWaitSessionDeliversOnlyTheOriginal : Obligations.StopWaitSessionDeliversOnlyTheOriginal := by
  intro p q n chunks ms z hfair h
  obtain ⟨x, hstarts, hmoves⟩ := moves_two h
  obtain ⟨hsession, -, rfl, hstream⟩ := swSession_of_starts hstarts
  obtain ⟨hend, hkept⟩ := moves_keep (fun x hx => ⟨hx.sender, hx.receiver⟩)
    (fun x y hx hmove => SwSession.move hx hmove) hfair hmoves hsession
  rw [hend.sunk]
  split_ifs with hdone
  · obtain ⟨l, hl⟩ := Option.ne_none_iff_exists'.1 (hend.receiver.swr.done_iff.1 hdone.1)
    have hn := hend.lastIdx l hl
    rw [hkept.swsN] at hn
    rw [hkept.swsChunk, hstream.resolve_right (by omega)]
    exact .inr rfl
  · exact .inl rfl

/-- A receiver that is done has received something (R222). -/
theorem SrrHeard.done_pos {maxChunk : Option Nat} {r r' : Srr} {ev : Event} {out : List Message}
    (h : SrrHeard maxChunk r ev r' out) (hr : r.st = .done → 0 < r.n) : r'.st = .done → 0 < r'.n := by
  cases h with
  | kept ev out hsteady hst =>
    rw [hst, hsteady.n]
    exact hr
  | ended ev st err hrun hst => rcases hst with rfl | rfl <;> nofun
  | opened => nofun
  | first idx last frame hst hidx => exact fun _ => Nat.lt_of_le_of_lt (Nat.zero_le _) hidx
  | dup idx last frame hst => exact hr

/-- Settles O59: the session is kept from its starts on, and a receiver that is done has received a stream of the sender's
size. -/
theorem selectiveRepeatSessionDeliversOnlyTheOriginal : Obligations.SelectiveRepeatSessionDeliversOnlyTheOriginal := by
  intro p q n w chunks ms z hfair h
  obtain ⟨x, hstarts, hmoves⟩ := moves_two h
  obtain ⟨hsession, -, rfl, hnot, hstream⟩ := srSession_of_starts hstarts
  have hstep (x y : Session) (hx : SrSession x ∧ (x.receiver.srr.st = .done → 0 < x.receiver.srr.n))
      (hmove : MoveForm x y) : SrSession y ∧ (y.receiver.srr.st = .done → 0 < y.receiver.srr.n) := by
    obtain ⟨hx, hpos⟩ := hx
    refine ⟨hx.move hmove, ?_⟩
    cases hmove with
    | drop => exact hpos
    | corrupt => exact hpos
    | sender => exact hpos
    | receiver hdown hev hears => exact (hears.srRx hx.receiver hx.receiverMode hev).done_pos hpos
  obtain ⟨⟨hend, hpos⟩, hkept⟩ := moves_keep (fun x hx => ⟨hx.1.sender, hx.1.receiver⟩) hstep hfair hmoves
    ⟨hsession, fun hdone => absurd hdone hnot⟩
  have horiginal (hdone : z.receiver.srr.st = .done) : z.sunk = [chunks.flatten] := by
    have hn := (hend.counts (hpos hdone)).1
    have hpos := hpos hdone
    rw [hn, hkept.srsN] at hpos
    rw [hend.sunk, if_pos hdone, hkept.srsChunk, hstream.resolve_right hpos.ne']
  refine ⟨?_, fun hdone => horiginal (hend.agrees.done hdone)⟩
  by_cases hdone : z.receiver.srr.st = .done
  · exact .inr (horiginal hdone)
  · exact .inl (by rw [hend.sunk, if_neg hdone])

end Sys2Proof.Machine
end
